-- ==== Sys2Proof/Word.lean ====
section
/-! DEFINITION. Sys2Proof/Word.lean: the bit-level words of the block, each with the width the spec gives it. All values are
unsigned (`00_scope.md` R7); there is no machine word beyond these. -/

namespace Sys2Proof

/-- The 4-bit command word `cmd[3:0] = {rst, en, b, a}` (`30_encoding.md` R50). -/
abbrev CmdWord := BitVec 4

/-- The 2-bit input symbol `sym[1:0] = {b, a}` (`30_encoding.md` R52). -/
abbrev Sym := BitVec 2

/-- The 3-bit code of a decoder state, on the register and on `state_o` (`10_state.md` R12, R20). -/
abbrev StateCode := BitVec 3

/-- The 2-bit code of a direction, on `dir_o` and in a ROM word (`30_encoding.md` R55). -/
abbrev DirCode := BitVec 2

/-- The 5-bit ROM address `{state[2:0], sym[1:0]}` (`20_memory.md` R32). -/
abbrev RomAddr := BitVec 5

/-- One 8-bit ROM word (`20_memory.md` R30, `30_encoding.md` R54). -/
abbrev RomWord := BitVec 8

end Sys2Proof
end

