-- ==== Sys2Proof/Config.lean ====
section
/-! DEFINITION. Sys2Proof/Config.lean: the block has no run-time configuration (`00_scope.md` R5, `10_state.md` R16); its parameters
are fixed by `00_scope.md` R5 and R6. The one constant without a body is the environment's free choice of inputs. -/

namespace Sys2Proof.Config

/-- NSTATES, the number of decoder states (`00_scope.md` R5). -/
def nStates : Nat := 7

/-- NSYM, the number of input symbols (`00_scope.md` R5). -/
def nSymbols : Nat := 4

/-- NENTRIES, the number of transition table entries, 7 × 4 (`00_scope.md` R5). -/
def nEntries : Nat := 28

/-- DESIGN CHOICE (safe), log entry 2: `freeCmd source n` is the command word that the input source `source` presents as its
`n`-th free one, on a tick for which `State.cmds` lists none. "A model must treat `a` and `b` as free inputs on every tick"
(`70_reset_and_hazards.md` R176), and each instance has "its own inputs" (`60_exceptions.md` R160), so every instance has a
source of its own (log entry 13). The value is free: nothing in Lean can evaluate it or relate two of its values. -/
opaque freeCmd : Nat → Nat → CmdWord

end Sys2Proof.Config
end

