-- ==== Sys2Proof/Syntax.lean ====
section
/-! DEFINITION. Sys2Proof/Syntax.lean: the operations of the block, one constructor for each row of spec/opcode_table.json
(`40_process.md` R70, `42_reset_inspect.md` R140 and R143; "its complete operation set is PROCESS, RESET and INSPECT", R146). -/

namespace Sys2Proof

/-- A command. Ignored bits of a command word (`b`, `a` of INSPECT; `en`, `b`, `a` of RESET) are no operands
(`30_encoding.md` R57; decision D3 allows this three-constructor type). -/
inductive Instr where
  /-- `inspect_state()`, also the idle tick (`42_reset_inspect.md` R143). -/
  | inspect
  /-- `process(pinA, pinB)`; the arguments stand in the document's order, pin A first (`40_process.md` R70). -/
  | process (a b : Bool)
  /-- `reset()` (`42_reset_inspect.md` R140). -/
  | reset
deriving DecidableEq, Repr

end Sys2Proof
end

