-- ==== Sys2Proof/WellFormed.lean ====
section
/-! DEFINITION. Sys2Proof/WellFormed.lean: what a well-formed command and well-formed raw words are. -/

namespace Sys2Proof

/-- Every command is well-formed: the operands are single bits and no combination is excluded ("every operation is defined
for every input", `70_reset_and_hazards.md` R176; "there is no illegal command", `30_encoding.md` R57). The checks that can
refuse something are those on raw words below. -/
def Instr.wellFormed : Instr → Bool
  | .inspect => true
  | .process _ _ => true
  | .reset => true

/-- A number is a command word when it fits the four input wires (`30_encoding.md` R50). -/
def cmdNumberOk (w : Nat) : Bool := decide (w < 16)

/-- A 3-bit code names a state unless it is 7 (`10_state.md` R12, `93_implementation_defined.md` U1). -/
def stateCodeOk (c : StateCode) : Bool := c != 7#3

/-- A 2-bit code names a direction unless it is 3 (`30_encoding.md` R55, `93_implementation_defined.md` U2). -/
def dirCodeOk (c : DirCode) : Bool := c != 3#2

/-- A ROM address is populated when it is 0..27 (`20_memory.md` R33, R37, `93_implementation_defined.md` U3). -/
def romAddrOk (a : RomAddr) : Bool := decide (a.toNat < 28)

/-- Bits 7:6 and bit 3 of a ROM word are zero (`30_encoding.md` R54, `93_implementation_defined.md` U4). -/
def romBitsOk (w : RomWord) : Bool := w &&& 0xC8#8 == 0#8

/-- A ROM word of the format of `30_encoding.md` R54: spare bits zero, direction not 3, next state not 7. -/
def romWordOk (w : RomWord) : Bool :=
  romBitsOk w && dirCodeOk (w.extractLsb' 4 2) && stateCodeOk (w.extractLsb' 0 3)

end Sys2Proof
end

