-- ==== Sys2Proof/Decode.lean ====
section
/-! DEFINITION. Sys2Proof/Decode.lean: the decoder of the 4-bit command word, total ("all 16 command words are legal and each
selects exactly one operation", `30_encoding.md` R51), and after it the encoder with the canonical words of R60. -/

namespace Sys2Proof

/-- `rst = cmd[3]` (`30_encoding.md` R50). -/
def cmdRst (c : CmdWord) : Bool := c.getLsbD 3

/-- `en = cmd[2]` (`30_encoding.md` R50). -/
def cmdEn (c : CmdWord) : Bool := c.getLsbD 2

/-- `b = cmd[1]`, the level of pin B (`30_encoding.md` R50). -/
def cmdB (c : CmdWord) : Bool := c.getLsbD 1

/-- `a = cmd[0]`, the level of pin A (`30_encoding.md` R50). -/
def cmdA (c : CmdWord) : Bool := c.getLsbD 0

/-- Operation selection by `{rst, en}` (`30_encoding.md` R51); `rst = 1` is RESET whatever `en` is (R53, decision D4, log
entry 9). No word is refused: R57 has no illegal command word. -/
def decode (c : CmdWord) : Instr :=
  match cmdRst c, cmdEn c with
  | true, _ => .reset
  | false, true => .process (cmdA c) (cmdB c)
  | false, false => .inspect

/-- The command word with the four given bits, `{rst, en, b, a}`. -/
def cmdOf (rst en b a : Bool) : CmdWord :=
  BitVec.ofBool rst ++ BitVec.ofBool en ++ BitVec.ofBool b ++ BitVec.ofBool a

/-- The canonical command word of an operation: INSPECT 0x0, PROCESS `0b01ba`, RESET 0x8 (`30_encoding.md` R60). -/
def encode : Instr → CmdWord
  | .inspect => cmdOf false false false false
  | .process a b => cmdOf false true b a
  | .reset => cmdOf true false false false

/-- The bits of the command word that select an operation and its operands: the row's mask and, for PROCESS, its operand bits
(`30_encoding.md` R51, R57). The other bits of the word are ignored. -/
def usedBits : Instr → CmdWord
  | .inspect => 0b1100#4
  | .process _ _ => 0b1111#4
  | .reset => 0b1000#4

/-- One row of the opcode map: mnemonic, match and mask over `cmd[3:0]` (`30_encoding.md` R51, R62, spec/opcode_table.json). -/
structure OpRow where
  mnemonic : String
  matchBits : CmdWord
  mask : CmdWord
deriving DecidableEq, Repr

/-- The opcode map (`30_encoding.md` R51). -/
def opRows : List OpRow :=
  [⟨"INSPECT", 0b0000#4, 0b1100#4⟩, ⟨"PROCESS", 0b0100#4, 0b1100#4⟩, ⟨"RESET", 0b1000#4, 0b1000#4⟩]

/-- A word matches a row when its masked bits are the row's match value. -/
def OpRow.hits (r : OpRow) (c : CmdWord) : Bool := c &&& r.mask == r.matchBits

/-- The mnemonic of a command as spec/opcode_table.json has it. -/
def Instr.mnemonic : Instr → String
  | .inspect => "INSPECT"
  | .process _ _ => "PROCESS"
  | .reset => "RESET"

/-- The command word that a number of the opcode table's bit numbering puts on the four input wires: bits 3..0.
DESIGN CHOICE (safe), log entry 5: a number has bits above bit 3, and no wire takes them. -/
def onWires (w : Nat) : CmdWord := BitVec.ofNat 4 w

/-- The command the decoder reads from a table-numbered word. A command word is one 4-bit word, so `nbits` does not
matter; the decoder refuses no command word, so the answer is never `none`. -/
def decodeTableWord (_nbits w : Nat) : Option Instr := some (decode (onWires w))

end Sys2Proof
end

