-- ==== Sys2Proof/Machine/State.lean ====
section
/-! DEFINITION. Sys2Proof/Machine/State.lean: the state of the machine, its value at reset, and why a step can stop. -/

namespace Sys2Proof.Machine

/-- The seven decoder states, in the document's order (`10_state.md` R10: "A model represents `state` as an enumerated type
with exactly seven constructors"; meanings R11). -/
inductive DecoderState where
  /-- The idle/rest position. -/
  | start
  | cwBegin
  | cwNext
  | cwFinal
  | ccwBegin
  | ccwNext
  | ccwFinal
deriving DecidableEq, Repr

/-- The three results of a tick (`30_encoding.md` R55). -/
inductive Direction where
  | none
  | clockwise
  | counterClockwise
deriving DecidableEq, Repr

/-- The faults of the machine: none. "The block raises no synchronous exception. The set of exception causes is empty"
(`60_exceptions.md` R150), so this type has no constructor. -/
inductive Fault where
deriving DecidableEq, Repr

/-- The refusals: what a bit-level model is told to refuse (`93_implementation_defined.md` U1 to U4). No operation reaches
one from any `State`: the state type has seven values and every ROM word of the image is well-formed. -/
inductive Refusal where
  /-- Raised by exec's arm of an instruction that has no meaning yet; no arm is left. Safe. -/
  | notModelled (mnemonic : String)
  /-- Raised by `decState` on code 7, in a ROM word or as a start state (U1: "`refuse`"). Safe. -/
  | stateCodeUnused
  /-- Raised by `decDir` on code 3 in a ROM word (U2). Safe. -/
  | directionCodeUnused
  /-- Raised by a table lookup at an address 28..31 (U3). Safe. -/
  | romAddressUnpopulated
  /-- Raised by a ROM word with bit 7, 6 or 3 set (U4). Safe. -/
  | romBitsNotZero
deriving DecidableEq, Repr

/-- The state. Only `state` is architectural (`10_state.md` R10); the ports stand here because a step is a function of State
alone (log entries 1 to 3). -/
structure State where
  /-- The decoder state register (`10_state.md` R10, R12). -/
  state : DecoderState
  /-- What the port `dir_o` showed on the tick just performed (`40_process.md` R76). Written on every tick, read by none. -/
  dirO : DirCode
  /-- What the port `state_o` showed on the tick just performed (`42_reset_inspect.md` R144). Written on every tick, read by
  none. -/
  stateO : StateCode
  /-- The command words the environment presents at the coming edges, next one first (`30_encoding.md` R50, `00_scope.md` R7). -/
  cmds : List CmdWord
  /-- The model's own: how many free words this decoder has taken from its own source of `Config.freeCmd` (log
  entries 2 and 13). -/
  freeDrawn : Nat
deriving DecidableEq, Repr

/-- The machine after power-on: `state` is `Start` (`10_state.md` R21, `70_reset_and_hazards.md` R170). The two output records
hold what R171 gives for every first tick: "`state_o = 0`; `dir_o = None` on every first tick". No command is listed and
none has been drawn (log entries 1 and 2). -/
def State.reset : State where
  state := .start
  dirO := 0b00#2
  stateO := 0b000#3
  cmds := []
  freeDrawn := 0

end Sys2Proof.Machine
end

