-- ==== Sys2Proof/Machine/Flags.lean ====
section
/-! DEFINITION. Sys2Proof/Machine/Flags.lean: there are no flags, condition codes or predicates (`10_state.md` R15). What the block
has in their place is the direction event emitter: the code of a direction and the two event lines of `dir_o`. -/

namespace Sys2Proof.Machine

/-- The 2-bit code of a direction (`30_encoding.md` R55, decision D7, log entry 8). -/
def dirCode : Direction → DirCode
  | .none => 0b00#2
  | .clockwise => 0b01#2
  | .counterClockwise => 0b10#2

/-- The direction a code names; code 3 names none and is refused (`30_encoding.md` R55, R57, U2). -/
def decDir (c : DirCode) : Except Refusal Direction :=
  if c = 0b00#2 then .ok .none
  else if c = 0b01#2 then .ok .clockwise
  else if c = 0b10#2 then .ok .counterClockwise
  else .error .directionCodeUnused

/-- "`dir_o[0]` alone is therefore a clockwise pulse" (`30_encoding.md` R55). -/
def cwPulse (c : DirCode) : Bool := c.getLsbD 0

/-- "`dir_o[1]` alone a counter-clockwise pulse" (`30_encoding.md` R55). -/
def ccwPulse (c : DirCode) : Bool := c.getLsbD 1

/-- A tick is a direction event when the port shows a code other than None (`60_exceptions.md` R153). -/
def isEvent (c : DirCode) : Bool := c != dirCode .none

end Sys2Proof.Machine
end

