-- ==== Sys2Proof/Machine/Operands.lean ====
section
/-! DEFINITION. Sys2Proof/Machine/Operands.lean: the operand forms of the block: the Gray-code input classifier, the code of the
state register, the ROM address, and the fields of a ROM word. -/

namespace Sys2Proof.Machine

/-- The Gray-code input classifier, `sym = (b << 1) | a` (`30_encoding.md` R52, `40_process.md` R71). -/
def classify (a b : Bool) : Sym :=
  ((BitVec.ofBool b).setWidth 2 <<< 1) ||| (BitVec.ofBool a).setWidth 2

/-- `enc(S)`, the 3-bit code of a state (`10_state.md` R12, decision D6, log entry 8). -/
def encState : DecoderState → StateCode
  | .start => 0#3
  | .cwBegin => 1#3
  | .cwNext => 2#3
  | .cwFinal => 3#3
  | .ccwBegin => 4#3
  | .ccwNext => 5#3
  | .ccwFinal => 6#3

/-- `dec(c)`, the state with code `c`; code 7 names none and is refused (`10_state.md` R12, R22, `30_encoding.md` R57, U1). -/
def decState (c : StateCode) : Except Refusal DecoderState :=
  if c = 0#3 then .ok .start
  else if c = 1#3 then .ok .cwBegin
  else if c = 2#3 then .ok .cwNext
  else if c = 3#3 then .ok .cwFinal
  else if c = 4#3 then .ok .ccwBegin
  else if c = 5#3 then .ok .ccwNext
  else if c = 6#3 then .ok .ccwFinal
  else .error .stateCodeUnused

/-- `addr = enc(state) * 4 + sym` on 5 bits (`20_memory.md` R32, `40_process.md` R72, decision D9). -/
def romAddr (S : DecoderState) (sym : Sym) : RomAddr :=
  (encState S).setWidth 5 * 4#5 + sym.setWidth 5

/-- `next = word & 0x07` (`30_encoding.md` R54). -/
def romNext (w : RomWord) : StateCode := (w &&& 0x07#8).setWidth 3

/-- `dir = (word & 0x30) >> 4` (`30_encoding.md` R54). -/
def romDir (w : RomWord) : DirCode := ((w &&& 0x30#8) >>> 4).setWidth 2

/-- Bits 7:6 and bit 3 of a ROM word, zero in all 28 words (`30_encoding.md` R54, R57). -/
def romSpare (w : RomWord) : RomWord := w &&& 0xC8#8

end Sys2Proof.Machine
end

