-- ==== Sys2Proof/Machine/Rom.lean ====
section
/-! DEFINITION. Sys2Proof/Machine/Rom.lean: the block's only memory, the read-only transition table as 28 bytes, and the lookup.
It is a constant, not a field of State (`10_state.md` R19, `20_memory.md` R42). -/

namespace Sys2Proof.Machine

/-- A memory in its canonical form: address and byte pairs, addresses rising. An unlisted address holds no word
(`20_memory.md` R33). -/
abbrev Memory := List Host.Cell

/-- The word at an address, if the address is populated. -/
def Memory.read : Memory → Nat → Option RomWord
  | [], _ => none
  | (k, w) :: m, a => if k = a then some w else Memory.read m a

/-- Canonical form: the addresses rise strictly. -/
def Memory.wf : Memory → Bool
  | [] => true
  | [_] => true
  | (k, _) :: (l, w) :: m => decide (k < l) && Memory.wf ((l, w) :: m)

/-- One row of the ROM: the four words of a state, at `base` to `base + 3`, for the symbols 00, 01, 10, 11. -/
def romRow (base : Nat) (w00 w01 w10 w11 : RomWord) : Memory :=
  [(base, w00), (base + 1, w01), (base + 2, w10), (base + 3, w11)]

/-- The ROM image (`20_memory.md` R31; entries `41_transition_table.md` R101 to R128; log entries 7 and 8). -/
def rom : Memory :=
  romRow 0 0x00#8 0x01#8 0x04#8 0x00#8       -- Start
  ++ romRow 4 0x00#8 0x01#8 0x00#8 0x02#8    -- CwBegin
  ++ romRow 8 0x00#8 0x00#8 0x03#8 0x02#8    -- CwNext
  ++ romRow 12 0x10#8 0x00#8 0x03#8 0x02#8   -- CwFinal
  ++ romRow 16 0x00#8 0x00#8 0x04#8 0x05#8   -- CcwBegin
  ++ romRow 20 0x00#8 0x06#8 0x00#8 0x05#8   -- CcwNext
  ++ romRow 24 0x20#8 0x06#8 0x00#8 0x05#8   -- CcwFinal

/-- One ROM read of one 8-bit word; no side effect (`20_memory.md` R36). -/
def romRead (a : RomAddr) : Option RomWord := rom.read a.toNat

/-- `word = (dir << 4) | next` (`30_encoding.md` R54). -/
def packWord (S : DecoderState) (d : Direction) : RomWord :=
  ((dirCode d).setWidth 8 <<< 4) ||| (encState S).setWidth 8

/-- Taking a ROM word apart: spare bits must be zero (U4), then `dec(word[2:0])` and the direction `word[5:4]`
(`30_encoding.md` R54, `40_process.md` R70). -/
def unpackWord (w : RomWord) : Except Refusal (DecoderState × Direction) :=
  if romSpare w = 0#8 then
    match decState (romNext w), decDir (romDir w) with
    | .ok S, .ok d => .ok (S, d)
    | .error r, _ => .error r
    | _, .error r => .error r
  else .error .romBitsNotZero

/-- The table lookup of PROCESS: address formation, one ROM read, field extraction (`40_process.md` R72, R73). There is "no
default/fallback branch": a missing entry would be refused (U3), and none is missing. -/
def romLookup (S : DecoderState) (sym : Sym) : Except Refusal (DecoderState × Direction) :=
  match romRead (romAddr S sym) with
  | some w => unpackWord w
  | none => .error .romAddressUnpopulated

end Sys2Proof.Machine
end

