-- ==== Sys2Proof/Machine/Ops.lean ====
section
/-! DEFINITION. Sys2Proof/Machine/Ops.lean: the shared operations: the command input, the clock edge, the two output ports as
functions of the register and the inputs, and the load of a start state. There is no exception to take and none to return
from (`60_exceptions.md` R150, R155, R156), so no operation for either stands here. -/

namespace Sys2Proof.Machine

/-- The command word on the inputs at the coming edge, of a decoder fed by the input source `source`: the next listed one, else
the free choice of that source (`10_state.md` R20, `70_reset_and_hazards.md` R176). DESIGN CHOICE (safe): the list, the
counter and the numbering of sources are the model's (log entries 1, 2 and 13). -/
def presentedFrom (source : Nat) (s : State) : CmdWord :=
  match s.cmds with
  | c :: _ => c
  | [] => Config.freeCmd source s.freeDrawn

/-- The command word on the inputs at the coming edge of the one decoder that `step` runs. DESIGN CHOICE (safe): its source is
number 0, that of the first instance (log entry 13); instances at other places have other sources. -/
def presented (s : State) : CmdWord := presentedFrom 0 s

/-- The input moves on to the following tick. -/
def nextInput (s : State) : State :=
  match s.cmds with
  | _ :: cs => { s with cmds := cs }
  | [] => { s with freeDrawn := s.freeDrawn + 1 }

/-- The input of the coming tick is set to a word; the words of later ticks keep their ticks. -/
def presentWord (s : State) (c : CmdWord) : State := { s with cmds := c :: s.cmds.drop 1 }

/-- One rising edge: during the tick `dir_o` shows the direction and `state_o` shows `enc(state)` from before the edge; at the
edge the register takes the next state (`40_process.md` R70, R74, R76, `42_reset_inspect.md` R144). -/
def tick (d : Direction) (S' : DecoderState) (s : State) : State :=
  { s with state := S', dirO := dirCode d, stateO := encState s.state }

/-- The combinational output `dir_o` of `40_process.md` R76: `(rst = 0 and en = 1) ? ROM[enc(state) * 4 + ((b << 1) | a)][5:4] : 0b00`;
`none` where the ROM holds no word. -/
def dirPort (S : DecoderState) (c : CmdWord) : Option DirCode :=
  if cmdRst c = false ∧ cmdEn c = true then
    (romRead (romAddr S (classify (cmdA c) (cmdB c)))).map romDir
  else some 0b00#2

/-- The output `state_o`, a direct view of the register on every tick (`42_reset_inspect.md` R144). -/
def statePort (S : DecoderState) : StateCode := encState S

/-- A bit-level start state: code 7 is refused, "never a value, never treat as Start" (`93_implementation_defined.md` U1). -/
def startAt (c : StateCode) (s : State) : Host.Outcome State Fault Refusal :=
  match decState c with
  | .ok S => .next { s with state := S }
  | .error r => .refused r

end Sys2Proof.Machine
end

