-- ==== Sys2Proof/Machine/Process.lean ====
section
/-! DEFINITION. Sys2Proof/Machine/Process.lean: the PROCESS operation (`40_process.md` R70). -/

namespace Sys2Proof.Machine

/-- PROCESS, `process(pinA, pinB) -> Direction`: classify the pins, look the entry up in the ROM, show its direction, load its
next state (`40_process.md` R70 to R76). The refusal stands for a ROM word that names no state or direction (U1 to U4); the
image holds none. -/
def execProcess (a b : Bool) (s : State) : Host.Outcome State Fault Refusal :=
  match romLookup s.state (classify a b) with
  | .ok (S', d) => .next (tick d S' s)
  | .error r => .refused r

end Sys2Proof.Machine
end

