-- ==== Sys2Proof/Machine/ResetInspect.lean ====
section
/-! DEFINITION. Sys2Proof/Machine/ResetInspect.lean: the RESET and INSPECT operations (`42_reset_inspect.md` R140, R143). -/

namespace Sys2Proof.Machine

/-- RESET, `reset()`: `dir_o = None`, `state <- Start`, no ROM read (`42_reset_inspect.md` R140, `30_encoding.md` R53). -/
def execReset (s : State) : Host.Outcome State Fault Refusal :=
  .next (tick .none .start s)

/-- INSPECT, `inspect_state()`, and the idle tick: `state_o = enc(state)`, `dir_o = None`, the register keeps its value
(`42_reset_inspect.md` R143). -/
def execInspect (s : State) : Host.Outcome State Fault Refusal :=
  .next (tick .none s.state s)

end Sys2Proof.Machine
end

