-- ==== Sys2Proof/Machine/Dispatch.lean ====
section
/-! DEFINITION. Sys2Proof/Machine/Dispatch.lean: one arm for each operation, each one call of its meaning. -/

namespace Sys2Proof.Machine

def exec (i : Instr) (s : State) : Host.Outcome State Fault Refusal :=
  match i with
  | .inspect => Sys2Proof.Machine.execInspect s
  | .process a b => Sys2Proof.Machine.execProcess a b s
  | .reset => Sys2Proof.Machine.execReset s

end Sys2Proof.Machine
end

