-- ==== Sys2Proof/Machine/Step.lean ====
section
/-! DEFINITION. Sys2Proof/Machine/Step.lean: one tick of the machine, and placing the command of the coming tick. -/

namespace Sys2Proof.Machine

/-- One rising edge of `clk`: the command word on the inputs is decoded and performed, and the inputs move on to the next
tick ("one operation per rising edge", `00_scope.md` R6 and R8, decision D1). -/
def step (s : State) : Host.Outcome State Fault Refusal :=
  exec (decode (presented s)) (nextInput s)

/-- The state with a table-numbered word on the inputs of the coming tick (log entries 4 and 5). -/
def State.withFetchWord (s : State) (_nbits w : Nat) : State := presentWord s (onWires w)

end Sys2Proof.Machine
end

