-- ==== Sys2Proof/Machine/Instances.lean ====
section
/-! DEFINITION. Sys2Proof/Machine/Instances.lean: several decoders side by side, which share the ROM and nothing else
(`60_exceptions.md` R160, `10_state.md` R23). -/

namespace Sys2Proof.Machine

/-- One tick of a decoder fed by the input source `source`; `step` is the one of source 0. -/
def stepFrom (source : Nat) (s : State) : Host.Outcome State Fault Refusal :=
  exec (decode (presentedFrom source s)) (nextInput s)

/-- One tick of several instances: "the product of `n` independent copies of the step function", each with "its own `state`, its
own inputs and outputs" (`60_exceptions.md` R160). DESIGN CHOICE (safe), log entry 13: the instance at place `k` of the list
is fed by source `k`, so that the free words of two instances are unrelated; the place is no identifier inside a decoder. -/
def stepInstances (ss : List State) : List (Host.Outcome State Fault Refusal) :=
  ss.mapIdx stepFrom

end Sys2Proof.Machine
end

