-- ==== Sys2Proof/Machine/Table.lean ====
section
/-! DEFINITION. Sys2Proof/Machine/Table.lean: the transition table as a mathematical function on names, entry by entry
(`41_transition_table.md` R100 to R128), and the step function of the whole block over it (`00_scope.md` R8). The meanings
read the ROM bytes; that the two presentations agree (`30_encoding.md` R56) is a statement. -/

namespace Sys2Proof.Machine

/-- `TT(S, sym)`: next state and direction. The two digits of a symbol are matched as written, `b` then `a`
(`41_transition_table.md` R100; the rule of the entry at address `n` is R(101+n)). -/
def TT (S : DecoderState) (sym : Sym) : DecoderState × Direction :=
  match S, sym.getLsbD 1, sym.getLsbD 0 with
  | .start, false, false => (.start, .none)
  | .start, false, true => (.cwBegin, .none)
  | .start, true, false => (.ccwBegin, .none)
  | .start, true, true => (.start, .none)
  | .cwBegin, false, false => (.start, .none)
  | .cwBegin, false, true => (.cwBegin, .none)      -- hold, decision D10
  | .cwBegin, true, false => (.start, .none)
  | .cwBegin, true, true => (.cwNext, .none)
  | .cwNext, false, false => (.start, .none)
  | .cwNext, false, true => (.start, .none)         -- reading D11
  | .cwNext, true, false => (.cwFinal, .none)
  | .cwNext, true, true => (.cwNext, .none)         -- hold, decision D10
  | .cwFinal, false, false => (.start, .clockwise)  -- closing symbol 00, conflict C1
  | .cwFinal, false, true => (.start, .none)
  | .cwFinal, true, false => (.cwFinal, .none)      -- hold, decision D10
  | .cwFinal, true, true => (.cwNext, .none)        -- decision D12
  | .ccwBegin, false, false => (.start, .none)
  | .ccwBegin, false, true => (.start, .none)
  | .ccwBegin, true, false => (.ccwBegin, .none)    -- hold, decision D10
  | .ccwBegin, true, true => (.ccwNext, .none)
  | .ccwNext, false, false => (.start, .none)
  | .ccwNext, false, true => (.ccwFinal, .none)
  | .ccwNext, true, false => (.start, .none)        -- reading D11
  | .ccwNext, true, true => (.ccwNext, .none)       -- hold, decision D10
  | .ccwFinal, false, false => (.start, .counterClockwise)  -- closing symbol 00, conflict C1
  | .ccwFinal, false, true => (.ccwFinal, .none)    -- hold, decision D10
  | .ccwFinal, true, false => (.start, .none)
  | .ccwFinal, true, true => (.ccwNext, .none)      -- decision D12

/-- The step function of the block on names, `step : State × Cmd -> State × Dir` (`00_scope.md` R8). -/
def blockStep (S : DecoderState) (c : CmdWord) : DecoderState × Direction :=
  match decode c with
  | .inspect => (S, .none)
  | .process a b => TT S (classify a b)
  | .reset => (.start, .none)

end Sys2Proof.Machine
end

