-- ==== Sys2Proof/Machine/Trace.lean ====
section
/-! DEFINITION. Sys2Proof/Machine/Trace.lean: traces, the block's "assembly": a list of commands applied one per tick, its result,
its pseudo-commands and its text (`30_encoding.md` R59 to R61, `20_memory.md` R39). -/

namespace Sys2Proof.Machine

/-- The result of a trace: "the list of `dir_o` values, one per command, and the final `state`" (`30_encoding.md` R60), by
left-to-right composition (`20_memory.md` R39). -/
def runTrace : List Instr → State → Host.Outcome (List DirCode × State) Fault Refusal
  | [], s => .next ([], s)
  | i :: is, s =>
    match exec i s with
    | .next t =>
      match runTrace is t with
      | .next (ds, u) => .next (t.dirO :: ds, u)
      | .fault r => .fault r
      | .refused r => .refused r
    | .fault r => .fault r
    | .refused r => .refused r

/-- One entry of a written trace: a command or a pseudo-command (`30_encoding.md` R60, R61). -/
inductive TraceItem where
  | command (i : Instr)
  /-- `CW`: one clean clockwise detent. -/
  | cw
  /-- `CCW`: one clean counter-clockwise detent. -/
  | ccw
  /-- `P ba *n`: the same symbol on `n` consecutive ticks. -/
  | repeated (a b : Bool) (n : Nat)
  /-- `NOP`: a tick on which the caller neither samples nor resets. -/
  | nop
deriving DecidableEq, Repr

/-- In `P ba *n`, `n >= 1` (`30_encoding.md` R61). -/
def TraceItem.wellFormed : TraceItem → Bool
  | .repeated _ _ n => decide (1 ≤ n)
  | .command i => i.wellFormed
  | .cw => true
  | .ccw => true
  | .nop => true

/-- `P ba`, the PROCESS command of a symbol written `ba`: pin B is the left digit, pin A the right one (`30_encoding.md` R59). -/
def sample (b a : Bool) : Instr := .process a b

/-- The fixed expansion of a trace entry (`30_encoding.md` R61). -/
def TraceItem.expand : TraceItem → List Instr
  | .command i => [i]
  | .cw => [sample false true, sample true true, sample true false, sample false false]
  | .ccw => [sample true false, sample true true, sample false true, sample false false]
  | .repeated a b n => List.replicate n (.process a b)
  | .nop => [.inspect]

/-- A list of characters cut at every separator. -/
def cutAt (sep : Char → Bool) : List Char → List (List Char)
  | [] => [[]]
  | c :: cs =>
    if sep c then [] :: cutAt sep cs
    else match cutAt sep cs with
      | [] => [[c]]
      | w :: ws => (c :: w) :: ws

/-- The pieces between separators that are not empty. -/
def piecesAt (sep : Char → Bool) (cs : List Char) : List (List Char) :=
  (cutAt sep cs).filter (fun w => !w.isEmpty)

/-- All values of a list of options, or none. -/
def allSome {α : Type} : List (Option α) → Option (List α)
  | [] => some []
  | none :: _ => none
  | some x :: xs => (allSome xs).map (x :: ·)

/-- One digit of a symbol. -/
def parseBit : Char → Option Bool
  | '0' => some false
  | '1' => some true
  | _ => none

/-- A symbol written `ba`, as the PROCESS command it stands for (`30_encoding.md` R59). -/
def parseSymbol : List Char → Option Instr
  | [cb, ca] =>
    match parseBit cb, parseBit ca with
    | some b, some a => some (sample b a)
    | _, _ => none
  | _ => none

/-- A decimal number. -/
def parseNat (acc : Nat) : List Char → Option Nat
  | [] => some acc
  | c :: cs => if c.isDigit then parseNat (acc * 10 + (c.toNat - 48)) cs else none

/-- One trace entry from its words (`30_encoding.md` R60, R61; spacing and decimal counts: DESIGN CHOICE, log entry 14). -/
def parseItem : List (List Char) → Option TraceItem
  | [['I']] => some (.command .inspect)
  | [['R']] => some (.command .reset)
  | [['N', 'O', 'P']] => some .nop
  | [['C', 'W']] => some .cw
  | [['C', 'C', 'W']] => some .ccw
  | [['P'], sym] => (parseSymbol sym).map .command
  | [['P'], sym, '*' :: d :: ds] =>
    match parseSymbol sym, parseNat 0 (d :: ds) with
    | some (.process a b), some n =>
      if (TraceItem.repeated a b n).wellFormed then some (.repeated a b n) else none
    | _, _ => none
  | _ => none

/-- A trace in the syntax of `30_encoding.md` R60: entries separated by `;` or newlines. DESIGN CHOICE, log entry 14: any number
of spaces stands between words, none inside a symbol, and empty entries are skipped. -/
def parseTrace (text : List Char) : Option (List TraceItem) :=
  allSome ((((cutAt (fun c => c == ';' || c == '\n') text).map (piecesAt (· == ' '))).filter
    (fun ws => !ws.isEmpty)).map parseItem)

/-- A trace in the document's bracket form, `[01, 11, 10, 00]` (`30_encoding.md` R59). DESIGN CHOICE, log entry 14: every space
is dropped, inside a symbol too, so `[0 1, 1 1]` reads as `[01, 11]`; empty entries are skipped; `[]` is the empty trace. -/
def parseBracketed (text : List Char) : Option (List Instr) :=
  match text.filter (· != ' ') with
  | '[' :: rest =>
    if rest.getLast? = some ']' then allSome ((piecesAt (· == ',') rest.dropLast).map parseSymbol)
    else none
  | _ => none

/-- The digit of a pin level in a written symbol. -/
def bitChar (v : Bool) : Char := if v then '1' else '0'

/-- A command in trace syntax (`30_encoding.md` R60). -/
def traceText : Instr → List Char
  | .inspect => ['I']
  | .process a b => ['P', ' ', bitChar b, bitChar a]
  | .reset => ['R']

end Sys2Proof.Machine
end

