-- ==== Sys2Proof/Safety.lean ====
section
/-! DEFINITION. Sys2Proof/Safety.lean: the terms in which claims about the block are made: legal port codes, the home symbol and
the four symbol classes, the mirror symmetry, the history since `Start` and its regular languages, and tables that agree
with the document. Nothing here is part of the machine. -/

namespace Sys2Proof.Safety

open Sys2Proof Sys2Proof.Machine

/-- The codes the spec says never occur do not occur on the ports, and a direction on `dir_o` stands beside the register back
in `Start` after a tick that began in the final state of that direction (`30_encoding.md` R55, R57; `41_transition_table.md` R129). -/
structure PortsLegal (s : State) : Prop where
  dirLegal : s.dirO ≠ 3#2
  stateLegal : s.stateO ≠ 7#3
  eventInStart : isEvent s.dirO = true → s.state = .start
  clockwiseFromFinal : s.dirO = dirCode .clockwise → s.stateO = encState .cwFinal
  counterClockwiseFromFinal : s.dirO = dirCode .counterClockwise → s.stateO = encState .ccwFinal

/-! ## Symbols relative to a state (`41_transition_table.md` R131) -/

/-- The next symbol of the clockwise cycle 00, 01, 11, 10, 00 (`41_transition_table.md` R130). -/
def cwSucc (sym : Sym) : Sym :=
  if sym = 0b00#2 then 0b01#2 else if sym = 0b01#2 then 0b11#2 else if sym = 0b11#2 then 0b10#2 else 0b00#2

/-- The next symbol of the counter-clockwise cycle 00, 10, 11, 01, 00 (`41_transition_table.md` R130). -/
def ccwSucc (sym : Sym) : Sym :=
  if sym = 0b00#2 then 0b10#2 else if sym = 0b10#2 then 0b11#2 else if sym = 0b11#2 then 0b01#2 else 0b00#2

/-- The two senses of a cycle. -/
inductive Sense where
  | cw
  | ccw
deriving DecidableEq, Repr

/-- The cycle a progressing state belongs to. -/
def senseOf : DecoderState → Option Sense
  | .start => none
  | .cwBegin | .cwNext | .cwFinal => some .cw
  | .ccwBegin | .ccwNext | .ccwFinal => some .ccw

/-- The next symbol of a cycle. -/
def succSym : Sense → Sym → Sym
  | .cw => cwSucc
  | .ccw => ccwSucc

/-- The home symbol of a state (`00_scope.md` R9, `41_transition_table.md` R131). -/
def homeSym : DecoderState → Sym
  | .start => 0b00#2
  | .cwBegin => 0b01#2
  | .cwNext => 0b11#2
  | .cwFinal => 0b10#2
  | .ccwBegin => 0b10#2
  | .ccwNext => 0b11#2
  | .ccwFinal => 0b01#2

/-- The four classes of a symbol relative to a state. -/
inductive SymClass where
  | hold
  | advance (sense : Sense)
  | backStep
  | doubleFlip
deriving DecidableEq, Repr

/-- The class of a symbol: equal to the home symbol, different from it in both bits, the next symbol of the state's cycle, or
the previous one; from `Start` both single-bit changes are advances. -/
def classOf (S : DecoderState) (sym : Sym) : SymClass :=
  if sym = homeSym S then .hold
  else if sym = ~~~(homeSym S) then .doubleFlip
  else match senseOf S with
    | none => if sym = cwSucc (homeSym S) then .advance .cw else .advance .ccw
    | some sn => if sym = succSym sn (homeSym S) then .advance sn else .backStep

/-- The next state of the cycle. -/
def succState : Sense → DecoderState → DecoderState
  | .cw, .start => .cwBegin
  | .ccw, .start => .ccwBegin
  | _, .cwBegin => .cwNext
  | _, .cwNext => .cwFinal
  | _, .cwFinal => .start
  | _, .ccwBegin => .ccwNext
  | _, .ccwNext => .ccwFinal
  | _, .ccwFinal => .start

/-- The final states. -/
def isFinal (S : DecoderState) : Bool := S == .cwFinal || S == .ccwFinal

/-- The direction of a cycle. -/
def dirOfSense : Sense → Direction
  | .cw => .clockwise
  | .ccw => .counterClockwise

/-- Next state and direction by class, the table of `41_transition_table.md` R131. -/
def byClass (S : DecoderState) : SymClass → DecoderState × Direction
  | .hold => (S, .none)
  | .advance sn => (succState sn S, if isFinal S then dirOfSense sn else .none)
  | .backStep => (match S with | .cwFinal => .cwNext | .ccwFinal => .ccwNext | _ => .start, .none)
  | .doubleFlip => (.start, .none)

/-- What the rule of one table entry says of `(S, ba)` (`41_transition_table.md`, template of an entry rule): the ROM address and
byte, the entry, the class of the symbol, the command word, and the PROCESS tick from every machine state in `S`. The address and the byte are in
the codes of D6 to D9, the command word is D3, and showing the direction on the port of that tick is D5, as the rules have them. -/
structure EntryIs (S : DecoderState) (b a : Bool) (addr : Nat) (byte : RomWord) (S' : DecoderState) (d : Direction)
    (cls : SymClass) : Prop where
  address : (romAddr S (classify a b)).toNat = addr
  byteRead : rom.read addr = some byte
  bytePacked : byte = packWord S' d
  entry : TT S (classify a b) = (S', d)
  symClass : classOf S (classify a b) = cls
  command : encode (.process a b) = 0b01#2 ++ classify a b
  runs : ∀ s : State, s.state = S →
    exec (.process a b) s = .next { s with state := S', dirO := dirCode d, stateO := encState S }

/-! ## Mirror (`41_transition_table.md` R130) -/

/-- Every `Cw` state exchanged with its `Ccw` namesake. -/
def mirrorState : DecoderState → DecoderState
  | .start => .start
  | .cwBegin => .ccwBegin
  | .cwNext => .ccwNext
  | .cwFinal => .ccwFinal
  | .ccwBegin => .cwBegin
  | .ccwNext => .cwNext
  | .ccwFinal => .cwFinal

/-- `Clockwise` exchanged with `CounterClockwise`. -/
def mirrorDir : Direction → Direction
  | .none => .none
  | .clockwise => .counterClockwise
  | .counterClockwise => .clockwise

/-! ## The history since `Start` (`41_transition_table.md` R136) -/

/-- The PROCESS symbols since the decoder was last in `Start`, after one more command `i` that left the register at `S'`. -/
def sinceStart (h : List Sym) (i : Instr) (S' : DecoderState) : List Sym :=
  match i with
  | .inspect => h
  | .process a b => if S' = .start then [] else h ++ [classify a b]
  | .reset => []

/-- `x+`, one or more repeats of a symbol. -/
def oneOrMore (x : Sym) : RegularExpression Sym := .comp (.char x) (.star (.char x))

/-- `(x+ y+)*`. -/
def pairs (x y : Sym) : RegularExpression Sym := .star (.comp (oneOrMore x) (oneOrMore y))

/-- The histories that leave the decoder in a state, as regular expressions over symbols. -/
def progress : DecoderState → RegularExpression Sym
  | .start => .epsilon
  | .cwBegin => oneOrMore 0b01#2
  | .cwNext => .comp (oneOrMore 0b01#2) (.comp (oneOrMore 0b11#2) (pairs 0b10#2 0b11#2))
  | .cwFinal => .comp (oneOrMore 0b01#2) (.comp (oneOrMore 0b11#2) (.comp (oneOrMore 0b10#2) (pairs 0b11#2 0b10#2)))
  | .ccwBegin => oneOrMore 0b10#2
  | .ccwNext => .comp (oneOrMore 0b10#2) (.comp (oneOrMore 0b11#2) (pairs 0b01#2 0b11#2))
  | .ccwFinal => .comp (oneOrMore 0b10#2) (.comp (oneOrMore 0b11#2) (.comp (oneOrMore 0b01#2) (pairs 0b11#2 0b01#2)))

/-- `01+ 11+ 10+ (11+ 10+)* 00`, the words a clockwise event closes (`41_transition_table.md` R136). -/
def clockwiseWords : RegularExpression Sym :=
  .comp (oneOrMore 0b01#2) (.comp (oneOrMore 0b11#2) (.comp (oneOrMore 0b10#2) (.comp (pairs 0b11#2 0b10#2) (.char 0b00#2))))

/-- `10+ 11+ 01+ (11+ 01+)* 00`, the words a counter-clockwise event closes (`41_transition_table.md` R136). -/
def counterClockwiseWords : RegularExpression Sym :=
  .comp (oneOrMore 0b10#2) (.comp (oneOrMore 0b11#2) (.comp (oneOrMore 0b01#2) (.comp (pairs 0b11#2 0b01#2) (.char 0b00#2))))

/-- The invariant of R136: the history since `Start` is a word of the register's state. -/
def HistoryFits (h : List Sym) (s : State) : Prop := h ∈ (progress s.state).matches'

/-! ## Any table that agrees with the document (`41_transition_table.md` R138) -/

/-- A transition table on names. -/
abbrev Table := DecoderState → Sym → DecoderState × Direction

/-- The eight entries the document does not fix: six holds (D10) and two back-steps from the final states (D12). -/
def openEntries : List (DecoderState × Sym) :=
  [(.cwBegin, 0b01#2), (.cwNext, 0b11#2), (.cwFinal, 0b10#2), (.cwFinal, 0b11#2),
   (.ccwBegin, 0b10#2), (.ccwNext, 0b11#2), (.ccwFinal, 0b01#2), (.ccwFinal, 0b11#2)]

/-- A table that has the 20 entries the document fixes and gives the other eight no direction. -/
def AgreesWithDocument (T : Table) : Prop :=
  (∀ S sym, (S, sym) ∉ openEntries → T S sym = TT S sym) ∧
  (∀ S sym, (S, sym) ∈ openEntries → (T S sym).2 = .none)

/-- Directions and final state of a symbol list over a table. -/
def runTable (T : Table) (S : DecoderState) : List Sym → List Direction × DecoderState
  | [] => ([], S)
  | x :: xs =>
    let r := runTable T (T S x).1 xs
    ((T S x).2 :: r.1, r.2)

/-- A command over a table: INSPECT keeps the state and RESET goes to `Start`, both without a direction, and PROCESS takes the
table's entry (`00_scope.md` R8 with any table in the place of this block's). -/
def tableCommand (T : Table) (S : DecoderState) : Instr → DecoderState × Direction
  | .inspect => (S, .none)
  | .process a b => T S (classify a b)
  | .reset => (.start, .none)

/-- Directions and final state of a trace of commands over a table. -/
def runCommands (T : Table) (S : DecoderState) : List Instr → List Direction × DecoderState
  | [] => ([], S)
  | i :: is =>
    let r := runCommands T (tableCommand T S i).1 is
    ((tableCommand T S i).2 :: r.1, r.2)

/-! ## Traces -/

/-- The number of PROCESS commands of a trace. -/
def samples : List Instr → Nat
  | [] => 0
  | .process _ _ :: is => samples is + 1
  | .inspect :: is => samples is
  | .reset :: is => samples is

/-- The results of the PROCESS and RESET commands of a trace, those of idle ticks left out. -/
def busyResults : List Instr → List DirCode → List DirCode
  | .inspect :: is, _ :: ds => busyResults is ds
  | _ :: is, d :: ds => d :: busyResults is ds
  | [], _ => []
  | _ :: _, [] => []

/-- A trace without its idle ticks. -/
def withoutIdle (is : List Instr) : List Instr := is.filter (fun i => i != .inspect)

/-- `n + 1` samples of the symbol `ba`. -/
def held (n : Nat) (b a : Bool) : List Instr := List.replicate (n + 1) (sample b a)

/-- `n` results None. -/
def quiet (n : Nat) : List DirCode := List.replicate n (dirCode .none)

end Sys2Proof.Safety
end

