-- ==== Sys2Proof/Certificates/Slice0/Obligations.lean ====
section
/-! DEFINITION. Sys2Proof/Certificates/Slice0/Obligations.lean: the statements about the block, each a Prop, none proved here.
The block has no flags, no control registers, no writable memory and no exception registers (`10_state.md` R15 to R19,
`60_exceptions.md` R150), so a frame here speaks of the register, the two ports and the command input: that is all of State. -/

open Sys2Proof Sys2Proof.Machine Sys2Proof.Safety

/-! ## Encodings -/

/-- A few words written out from `30_encoding.md` section 1 (decisions D3, D4) decode to what they stand for. -/
def Obligations.WrittenWordsDecode : Prop :=
  decode 0x0#4 = .inspect ∧ decode 0x3#4 = .inspect ∧
  decode 0b0100#4 = .process false false ∧ decode 0b0101#4 = .process true false ∧
  decode 0b0110#4 = .process false true ∧ decode 0b0111#4 = .process true true ∧
  decode 0x8#4 = .reset ∧ decode 0xC#4 = .reset ∧ decode 0xF#4 = .reset

/-- Every table-numbered word decodes, and what is on its four wires hits exactly one row of the opcode map, the row of the
command it decodes to (`30_encoding.md` section 1, decision D3; that bits above bit 3 reach no wire is the model's choice, log
entry 5). -/
def Obligations.EveryWordHitsOneRow : Prop :=
  ∀ nbits w : Nat, ∃ i, decodeTableWord nbits w = some i ∧
    (opRows.filter (fun r => r.hits (onWires w))).map OpRow.mnemonic = [i.mnemonic]

/-- Decode and encode agree: every well-formed command comes back from its canonical word; a word decodes to a command
exactly when its used bits are that command's canonical word; and a step on that word performs the command
(`30_encoding.md` sections 1 and 4, decisions D3, D4, D15). -/
def Obligations.WordsAndCommandsAgree : Prop :=
  (∀ i : Instr, i.wellFormed = true → decode (encode i) = i) ∧
  (∀ (c : CmdWord) (i : Instr), decode c = i ↔ c &&& usedBits i = encode i) ∧
  (∀ (i : Instr) (s : State) (nbits : Nat),
    step (s.withFetchWord nbits (encode i).toNat) = exec i { s with cmds := s.cmds.drop 1 })

/-- R52: the four symbols, the packing `(pinB << 1) | pinA`, and `sym = cmd[1:0]`: a step on a PROCESS word performs PROCESS with
the pins whose symbol is the low two bits of the presented word. -/
def Obligations.PinsMakeTheSymbol : Prop :=
  (classify false false = 0b00#2 ∧ classify true false = 0b01#2 ∧
    classify false true = 0b10#2 ∧ classify true true = 0b11#2) ∧
  (∀ a b : Bool, (classify a b).toNat = (b.toNat <<< 1) ||| a.toNat) ∧
  (∀ s : State, cmdRst (presented s) = false → cmdEn (presented s) = true → ∃ a b,
    step s = exec (.process a b) (nextInput s) ∧ classify a b = (presented s).extractLsb' 0 2)

/-- A ROM word is taken apart to a state and a direction exactly when it is their packing, and this exists exactly for the
words of the format (`30_encoding.md` section 2; the layout and the codes are decisions D6, D7, D8; what is refused, U1, U2, U4). -/
def Obligations.RomWordFormat : Prop :=
  (∀ (w : RomWord) (S : DecoderState) (d : Direction), unpackWord w = .ok (S, d) ↔ w = packWord S d) ∧
  (∀ w : RomWord, romWordOk w = true ↔ ∃ S d, w = packWord S d)

/-- A bit-level start state of code 7 is refused by name; every other code starts its state and changes nothing else
(`93_implementation_defined.md` U1, decision D13). -/
def Obligations.UnusedStartCodeIsRefused : Prop :=
  (∀ s : State, startAt 7#3 s = .refused .stateCodeUnused) ∧
  (∀ (c : StateCode) (s : State), c ≠ 7#3 → ∃ S, encState S = c ∧ startAt c s = .next { s with state := S })

/-- A trace of commands written in trace syntax, entries separated by `;`, reads back as those commands (`30_encoding.md`
section 4, decision D15; the spacing is the model's choice, log entry 14). -/
def Obligations.TraceTextReadsBack : Prop :=
  ∀ is : List Instr,
    parseTrace (List.intercalate [';', ' '] (is.map traceText)) = some (is.map TraceItem.command)

/-! ## The step -/

/-- A step performs the decoded command on the state whose input has moved on; the presented word is the next listed one,
else the free choice of the environment (the listing is the model's choice, log entries 1, 2 and 4). -/
def Obligations.StepPerformsTheDecodedCommand : Prop :=
  (∀ (s : State) (i : Instr), decode (presented s) = i → step s = exec i (nextInput s)) ∧
  (∀ (s : State) (c : CmdWord) (cs : List CmdWord), s.cmds = c :: cs →
    presented s = c ∧ nextInput s = { s with cmds := cs }) ∧
  (∀ s : State, s.cmds = [] →
    presented s = Config.freeCmd 0 s.freeDrawn ∧ nextInput s = { s with freeDrawn := s.freeDrawn + 1 }) ∧
  (∀ (s : State) (nbits w : Nat), presented (s.withFetchWord nbits w) = onWires w)

/-- R8: one tick of the machine is the step function of the block on names, for the presented command word: the same next
state, and its direction on `dir_o`. -/
def Obligations.TickIsTheBlockStep : Prop :=
  ∀ s : State, ∃ t d, step s = .next t ∧ blockStep s.state (presented s) = (t.state, d) ∧ t.dirO = dirCode d

/-- R150: no step and no operation faults or is refused, and there is no fault to raise. -/
def Obligations.EveryTickAnswersNext : Prop :=
  (∀ s : State, ∃ t, step s = .next t) ∧
  (∀ (i : Instr) (s : State), ∃ t, exec i s = .next t) ∧
  (∀ _ : Fault, False)

/-- R39: a trace is the left-to-right composition of its parts, and a run of the machine on the listed command words of a
trace ends in the state the trace ends in. (Listing the words in State is the model's choice, log entry 1.) -/
def Obligations.TracesComposeInTickOrder : Prop :=
  (∀ (is js : List Instr) (s : State), ∃ ds t es u,
    runTrace is s = .next (ds, t) ∧ runTrace js t = .next (es, u) ∧ runTrace (is ++ js) s = .next (ds ++ es, u)) ∧
  (∀ (is : List Instr) (s : State) (rest : List CmdWord), ∃ ds u,
    runTrace is { s with cmds := rest } = .next (ds, u) ∧
    Sys2Proof.core.run is.length { s with cmds := is.map encode ++ rest } = .next u)

/-- Bits of a command word that its operation does not use have no effect on the tick (`30_encoding.md` section 3, decisions
D3, D4). -/
def Obligations.UnusedCommandBitsHaveNoEffect : Prop :=
  ∀ (s : State) (c c' : CmdWord),
    c &&& usedBits (decode c) = c' &&& usedBits (decode c) → step (presentWord s c) = step (presentWord s c')

/-- When `rst` is 1 the tick is a RESET whatever `en`, `b` and `a` are (decision D4 of the spec, log entry 9). -/
def Obligations.ResetWinsOverTheSample : Prop :=
  ∀ s : State, cmdRst (presented s) = true →
    step s = .next { nextInput s with state := .start, dirO := dirCode .none, stateO := encState s.state }

/-! ## The three operations -/

/-- R70: from every state and pin levels PROCESS reads the word at `enc(state) * 4 + sym`; its field `[2:0]` is the code of the
next state and its field `[5:4]` the code shown on `dir_o`; the same pair is the table's entry; nothing else changes but
`state_o`, which shows the register from before the edge; a direction comes only from `(CwFinal, 00)` and `(CcwFinal, 00)`.
(That the direction is on the port in this tick is decision D5, log entry 10.) -/
def Obligations.ProcessFollowsTheRom : Prop :=
  ∀ (a b : Bool) (s : State), ∃ (w : RomWord) (S' : DecoderState) (d : Direction),
    (classify a b).toNat = (b.toNat <<< 1) ||| a.toNat ∧
    encode (.process a b) = 0b01#2 ++ classify a b ∧
    (romAddr s.state (classify a b)).toNat = (encState s.state).toNat * 4 + (classify a b).toNat ∧
    rom.read ((encState s.state).toNat * 4 + (classify a b).toNat) = some w ∧
    w.extractLsb' 0 3 = encState S' ∧ w.extractLsb' 4 2 = dirCode d ∧
    TT s.state (classify a b) = (S', d) ∧
    exec (.process a b) s = .next { s with state := S', dirO := dirCode d, stateO := encState s.state } ∧
    (d = .clockwise ↔ s.state = .cwFinal ∧ classify a b = 0b00#2) ∧
    (d = .counterClockwise ↔ s.state = .ccwFinal ∧ classify a b = 0b00#2)

/-- R77: PROCESS answers a next state for all states and symbols, and what it answers depends on `state` and the pins alone. -/
def Obligations.ProcessDependsOnStateAndPinsAlone : Prop :=
  ∀ (a b : Bool) (s s' : State), s.state = s'.state → ∃ t t',
    exec (.process a b) s = .next t ∧ exec (.process a b) s' = .next t' ∧
    t.state = t'.state ∧ t.dirO = t'.dirO ∧ t.stateO = t'.stateO

/-- RESET answers a next state from every state: the register is `Start`, `dir_o` is None, `state_o` shows the register from
before the edge, nothing else changes; a second RESET changes the register no more; every word with `rst = 1` is a RESET
(`42_reset_inspect.md` section 1; None on the port is decision D5, the words decisions D3 and D4). -/
def Obligations.ResetForcesStart : Prop :=
  (∀ s : State,
    exec .reset s = .next { s with state := .start, dirO := 0b00#2, stateO := encState s.state }) ∧
  (∀ s t u : State, exec .reset s = .next t → exec .reset t = .next u → u.state = t.state) ∧
  (∀ c : CmdWord, c.getLsbD 3 = true → decode c = .reset)

/-- R141: RESET touches nothing but the register and the ports of its tick; after it INSPECT shows the initial state, and
every further trace gives the directions and the final register of a freshly initialised decoder. (That the input is a list and
a counter in State, which RESET leaves alone, is the model's choice, log entries 1, 2 and 4.) -/
def Obligations.ResetLeavesAFreshDecoder : Prop :=
  ∀ s : State, ∃ t v,
    exec .reset s = .next t ∧ t.cmds = s.cmds ∧ t.freeDrawn = s.freeDrawn ∧
    t.state = State.reset.state ∧ exec .inspect t = .next v ∧ v.stateO = encState State.reset.state ∧
    ∀ is : List Instr, ∃ ds u u',
      runTrace is t = .next (ds, u) ∧ runTrace is State.reset = .next (ds, u') ∧ u.state = u'.state

/-- INSPECT answers a next state from every state: `state_o` shows the register, `dir_o` is None, nothing else changes; every
word with `rst = 0` and `en = 0` is an INSPECT (`42_reset_inspect.md` section 2; idle ticks are decision D3, ports D5). -/
def Obligations.InspectShowsAndKeeps : Prop :=
  (∀ s : State, exec .inspect s = .next { s with dirO := 0b00#2, stateO := encState s.state }) ∧
  (∀ c : CmdWord, c.getLsbD 3 = false → c.getLsbD 2 = false → decode c = .inspect)

/-- R13: who writes the register. INSPECT keeps it, PROCESS loads the table's next state, RESET loads `Start`; every operation
shows it on `state_o`; a tick on which it changes is a PROCESS or a RESET. -/
def Obligations.OnlyProcessAndResetWriteTheRegister : Prop :=
  (∀ s : State, ∃ t, exec .inspect s = .next t ∧ t.state = s.state ∧ t.stateO = encState s.state) ∧
  (∀ (a b : Bool) (s : State), ∃ t, exec (.process a b) s = .next t ∧
    t.state = (TT s.state (classify a b)).1 ∧ t.stateO = encState s.state) ∧
  (∀ s : State, ∃ t, exec .reset s = .next t ∧ t.state = .start ∧ t.stateO = encState s.state) ∧
  (∀ s t : State, step s = .next t → t.state ≠ s.state →
    decode (presented s) = .reset ∨ ∃ a b, decode (presented s) = .process a b)

/-- The frame of every operation: the listed command words and the counter of free words stay as they were. These clauses are the
model's choice: the two fields are those of log entries 1 and 2, and that no operation touches the input is log entry 4.
INSPECT also leaves the register (`42_reset_inspect.md` section 2). There is no writable memory to frame: the ROM is a
constant (`20_memory.md` sections 2 and 3). -/
def Obligations.OperationsLeaveTheInputAlone : Prop :=
  ∀ (i : Instr) (s t : State), exec i s = .next t →
    t.cmds = s.cmds ∧ t.freeDrawn = s.freeDrawn ∧ (i = .inspect → t.state = s.state)

/-! ## The table, entry by entry -/

/-- R101 to R104, the row of `Start`. -/
def Obligations.StartRowEntries : Prop :=
  EntryIs .start false false 0 0x00#8 .start .none .hold ∧
  EntryIs .start false true 1 0x01#8 .cwBegin .none (.advance .cw) ∧
  EntryIs .start true false 2 0x04#8 .ccwBegin .none (.advance .ccw) ∧
  EntryIs .start true true 3 0x00#8 .start .none .doubleFlip

/-- R105, R107, R108, R109, R111, R113, R114: the entries of the clockwise states that the document fixes. -/
def Obligations.ClockwiseDocumentEntries : Prop :=
  EntryIs .cwBegin false false 4 0x00#8 .start .none .backStep ∧
  EntryIs .cwBegin true false 6 0x00#8 .start .none .doubleFlip ∧
  EntryIs .cwBegin true true 7 0x02#8 .cwNext .none (.advance .cw) ∧
  EntryIs .cwNext false false 8 0x00#8 .start .none .doubleFlip ∧
  EntryIs .cwNext true false 10 0x03#8 .cwFinal .none (.advance .cw) ∧
  EntryIs .cwFinal false false 12 0x10#8 .start .clockwise (.advance .cw) ∧
  EntryIs .cwFinal false true 13 0x00#8 .start .none .doubleFlip

/-- R117, R118, R120, R121, R122, R125, R127: the entries of the counter-clockwise states that the document fixes. -/
def Obligations.CounterClockwiseDocumentEntries : Prop :=
  EntryIs .ccwBegin false false 16 0x00#8 .start .none .backStep ∧
  EntryIs .ccwBegin false true 17 0x00#8 .start .none .doubleFlip ∧
  EntryIs .ccwBegin true true 19 0x05#8 .ccwNext .none (.advance .ccw) ∧
  EntryIs .ccwNext false false 20 0x00#8 .start .none .doubleFlip ∧
  EntryIs .ccwNext false true 21 0x06#8 .ccwFinal .none (.advance .ccw) ∧
  EntryIs .ccwFinal false false 24 0x20#8 .start .counterClockwise (.advance .ccw) ∧
  EntryIs .ccwFinal true false 26 0x00#8 .start .none .doubleFlip

/-- The ten entries the spec decided: the six holds (D10), the two back-steps of the next states (reading D11) and the two of
the final states (D12). Log entry 7. -/
def Obligations.DecidedEntries : Prop :=
  EntryIs .cwBegin false true 5 0x01#8 .cwBegin .none .hold ∧
  EntryIs .cwNext true true 11 0x02#8 .cwNext .none .hold ∧
  EntryIs .cwFinal true false 14 0x03#8 .cwFinal .none .hold ∧
  EntryIs .ccwBegin true false 18 0x04#8 .ccwBegin .none .hold ∧
  EntryIs .ccwNext true true 23 0x05#8 .ccwNext .none .hold ∧
  EntryIs .ccwFinal false true 25 0x06#8 .ccwFinal .none .hold ∧
  EntryIs .cwNext false true 9 0x00#8 .start .none .backStep ∧
  EntryIs .ccwNext true false 22 0x00#8 .start .none .backStep ∧
  EntryIs .cwFinal true true 15 0x02#8 .cwNext .none .backStep ∧
  EntryIs .ccwFinal true true 27 0x05#8 .ccwNext .none .backStep

/-- R56: the byte ROM and the function `TT` are two presentations of one table and agree on all 28 entries. -/
def Obligations.RomHoldsTheTable : Prop :=
  ∀ (S : DecoderState) (sym : Sym),
    rom.read ((encState S).toNat * 4 + sym.toNat) =
      some (((dirCode (TT S sym).2).setWidth 8 <<< 4) ||| (encState (TT S sym).1).setWidth 8)

/-- The ROM is in canonical form, has NSTATES × NSYM = NENTRIES words, all of the word format, at 0..27 and nowhere else; every
address a state and a symbol form is populated (`20_memory.md` section 1; the addressing is decision D9, what is refused U3). -/
def Obligations.RomIsPopulatedTo27 : Prop :=
  Memory.wf rom = true ∧ rom.length = Config.nEntries ∧ Config.nEntries = Config.nStates * Config.nSymbols ∧
  (∀ n : Nat, 28 ≤ n → rom.read n = none) ∧
  (∀ n : Nat, n < 28 → ∃ w, rom.read n = some w ∧ romWordOk w = true) ∧
  (∀ (S : DecoderState) (sym : Sym), romAddrOk (romAddr S sym) = true)

/-! ## The table as a whole -/

/-- R129: a PROCESS shows `Clockwise` exactly from `CwFinal` on 00, `CounterClockwise` exactly from `CcwFinal` on 00, `None` in
every other case, and a tick that shows a direction leads to `Start`. -/
def Obligations.ExactlyTwoEntriesEmit : Prop :=
  ∀ (a b : Bool) (s : State), ∃ t, exec (.process a b) s = .next t ∧
    (t.dirO = dirCode .clockwise ↔ s.state = .cwFinal ∧ classify a b = 0b00#2) ∧
    (t.dirO = dirCode .counterClockwise ↔ s.state = .ccwFinal ∧ classify a b = 0b00#2) ∧
    (t.dirO = dirCode .none ↔ ¬ ((s.state = .cwFinal ∨ s.state = .ccwFinal) ∧ classify a b = 0b00#2)) ∧
    (t.dirO ≠ dirCode .none → t.state = .start)

/-- Exchanging the pins and the two senses of the register exchanges the two senses of the result (`41_transition_table.md`
section 9, the spec's inference in its rule on direction naming). -/
def Obligations.SwappedPinsSwapTheDirection : Prop :=
  ∀ (a b : Bool) (s : State), ∃ t m d,
    exec (.process a b) s = .next t ∧
    exec (.process b a) { s with state := mirrorState s.state } = .next m ∧
    m.state = mirrorState t.state ∧ t.dirO = dirCode d ∧ m.dirO = dirCode (mirrorDir d)

/-- The table treats each class of symbol uniformly: hold, advance, back-step, double flip (`41_transition_table.md` section 9,
the spec's inference in its rule on home symbols; it rests on D10, D11, D12). -/
def Obligations.SymbolClassDecidesTheEntry : Prop :=
  ∀ (a b : Bool) (s : State),
    exec (.process a b) s = .next { s with
      state := (byClass s.state (classOf s.state (classify a b))).1
      dirO := dirCode (byClass s.state (classOf s.state (classify a b))).2
      stateO := encState s.state }

/-- Symbol 00 synchronises: from every state, and after every trace, one PROCESS of 00 leads to `Start` as RESET does, and shows
a direction exactly from a final state (`41_transition_table.md` section 9, the spec's inference in its rule on symbol 00). -/
def Obligations.RestSymbolSynchronises : Prop :=
  (∀ s : State, ∃ t r, exec (.process false false) s = .next t ∧ exec .reset s = .next r ∧
    t.state = .start ∧ r.state = .start ∧ (isEvent t.dirO = true ↔ isFinal s.state = true) ∧ isEvent r.dirO = false) ∧
  (∀ (is : List Instr) (s : State), ∃ ds t,
    runTrace (is ++ [.process false false]) s = .next (ds, t) ∧ t.state = .start)

/-- Every decoder state is reached from reset by samples alone (`41_transition_table.md` section 9, the spec's inference in its
rule on reachability). -/
def Obligations.EveryStateIsReachable : Prop :=
  ∀ S : DecoderState, ∃ (is : List Instr) (ds : List DirCode) (u : State),
    samples is = is.length ∧ runTrace is State.reset = .next (ds, u) ∧ u.state = S

/-- A clean cycle from `Start`, each symbol sampled once or more, shows exactly one direction, on the first closing 00, and ends
in `Start`; for both senses (`41_transition_table.md` section 9; the repeats rest on decision D10). -/
def Obligations.CleanCyclesEmitOnce : Prop :=
  ∀ (n1 n2 n3 n4 : Nat) (s : State), s.state = .start →
    (∃ u, runTrace (held n1 false true ++ held n2 true true ++ held n3 true false ++ held n4 false false) s =
        .next (quiet (n1 + 1 + (n2 + 1) + (n3 + 1)) ++ [dirCode .clockwise] ++ quiet n4, u) ∧ u.state = .start) ∧
    (∃ u, runTrace (held n1 true false ++ held n2 true true ++ held n3 false true ++ held n4 false false) s =
        .next (quiet (n1 + 1 + (n2 + 1) + (n3 + 1)) ++ [dirCode .counterClockwise] ++ quiet n4, u) ∧ u.state = .start)

/-- At most one event a detent: an event leaves the register in `Start`, and from `Start` no trace with fewer than four PROCESS
commands shows one (`41_transition_table.md` section 9, the rule on at most one event). -/
def Obligations.EventsAreFourSamplesApart : Prop :=
  (∀ (i : Instr) (s t : State), exec i s = .next t → isEvent t.dirO = true → t.state = .start) ∧
  (∀ (is : List Instr) (s : State), s.state = .start → samples is < 4 →
    ∃ ds u, runTrace is s = .next (ds, u) ∧ ∀ d ∈ ds, isEvent d = false)

/-- Where the history since `Start` fits the register, a PROCESS shows `Clockwise` exactly when the history with its symbol is a
word of `01+ 11+ 10+ (11+ 10+)* 00`, and `CounterClockwise` exactly for `10+ 11+ 01+ (11+ 01+)* 00` (`41_transition_table.md`
section 9, the spec's inference in its rule on at most one event; the repeats rest on D10, the optional group on D12). -/
def Obligations.EventsCloseAWordOfTheCycle : Prop :=
  ∀ (h : List Sym) (a b : Bool) (s : State), HistoryFits h s → ∃ t, exec (.process a b) s = .next t ∧
    (t.dirO = dirCode .clockwise ↔ h ++ [classify a b] ∈ clockwiseWords.matches') ∧
    (t.dirO = dirCode .counterClockwise ↔ h ++ [classify a b] ∈ counterClockwiseWords.matches')

/-- The eight properties of the document's section 8 hold of every table that has the 20 fixed entries and gives the other eight
no direction (`41_transition_table.md` section 9, the spec's inference in its last rule). In the order below: Totality (every
trace gets one result a command), Clean CW cycle, Clean CCW cycle, Idle stability, Noise rejection, Interrupted cycle recovery
(the abandoned attempt, then a clean cycle after it), Reset idempotence (RESET leaves `Start`, INSPECT then keeps it, and every
trace goes on as from a fresh decoder), At-most-one-event-per-detent (an event leads to `Start`, which has none). This
block's table is such a table, and the machine's operations are the commands over it. -/
def Obligations.DocumentEntriesSuffice : Prop :=
  AgreesWithDocument TT ∧
  (∀ (i : Instr) (s : State), ∃ t, exec i s = .next t ∧
    t.state = (tableCommand TT s.state i).1 ∧ t.dirO = dirCode (tableCommand TT s.state i).2) ∧
  ∀ T : Table, AgreesWithDocument T →
    (∀ S is, (runCommands T S is).1.length = is.length) ∧
    runTable T .start [0b01#2, 0b11#2, 0b10#2, 0b00#2] = ([.none, .none, .none, .clockwise], .start) ∧
    runTable T .start [0b10#2, 0b11#2, 0b01#2, 0b00#2] = ([.none, .none, .none, .counterClockwise], .start) ∧
    (∀ n : Nat, runTable T .start (List.replicate n 0b00#2) = (List.replicate n .none, .start)) ∧
    runTable T .start [0b11#2] = ([.none], .start) ∧
    runTable T .start [0b01#2, 0b00#2] = ([.none, .none], .start) ∧
    runTable T .start [0b01#2, 0b00#2, 0b01#2, 0b11#2, 0b10#2, 0b00#2] =
      ([.none, .none, .none, .none, .none, .clockwise], .start) ∧
    (∀ S, runCommands T S [.reset] = ([.none], .start) ∧ runCommands T S [.reset, .inspect] = ([.none, .none], .start)) ∧
    (∀ S is, runCommands T S (.reset :: is) = (.none :: (runCommands T .start is).1, (runCommands T .start is).2)) ∧
    (∀ S sym, (T S sym).2 ≠ .none → (T S sym).1 = .start) ∧ (∀ sym, (T .start sym).2 = .none)

/-! ## Ports and ticks -/

/-- The two output ports are the functions of the register and the inputs that the spec gives (`40_process.md` section 2 and
`42_reset_inspect.md` section 2; output timing is decision D5, log entry 10). -/
def Obligations.PortsAreFunctionsOfRegisterAndInputs : Prop :=
  ∀ s : State, ∃ t, step s = .next t ∧
    dirPort s.state (presented s) = some t.dirO ∧ statePort s.state = t.stateO

/-- What the ports showed on the last tick is read by no later one (`10_state.md` section 2: the direction is "not stored
state"; that State records it is the model's choice, log entry 3). -/
def Obligations.PastOutputsAreNeverRead : Prop :=
  ∀ (s : State) (d : DirCode) (q : StateCode),
    step { s with dirO := d, stateO := q } = step s ∧
    ∀ i : Instr, exec i { s with dirO := d, stateO := q } = exec i s

/-- A direction event lasts one tick: whatever command follows it, that tick shows None (`60_exceptions.md` section 2, decision
D5). -/
def Obligations.EventLastsOneTick : Prop :=
  ∀ (i j : Instr) (s t : State), exec i s = .next t → isEvent t.dirO = true →
    ∃ u, exec j t = .next u ∧ isEvent u.dirO = false

/-- Idle ticks do not advance the machine: a trace and the same trace without them end in the same register and show the same
results on the other ticks (`40_process.md` section 4, the spec's inference in its first rule there). -/
def Obligations.IdleTicksDoNotAdvance : Prop :=
  ∀ (is : List Instr) (s : State), ∃ ds u es v,
    runTrace is s = .next (ds, u) ∧ runTrace (withoutIdle is) s = .next (es, v) ∧
    u.state = v.state ∧ busyResults is ds = es

/-- Several decoders step as independent copies with inputs of their own: the instance at place `k` performs, on its own state,
the next word of its own list, or, where it lists none, the free word of source `k` at its own counter; it answers a next
state; no other instance's state, inputs included, changes its result; one decoder alone is `step` (`60_exceptions.md`
section 6; that an instance's place in the list numbers its source is the model's choice, log entry 13). -/
def Obligations.InstancesAreIndependent : Prop :=
  (∀ (ss : List State) (k : Nat) (s : State) (c : CmdWord) (cs : List CmdWord), ss[k]? = some s → s.cmds = c :: cs →
    (stepInstances ss)[k]? = some (exec (decode c) { s with cmds := cs })) ∧
  (∀ (ss : List State) (k : Nat) (s : State), ss[k]? = some s → s.cmds = [] →
    (stepInstances ss)[k]? =
      some (exec (decode (Config.freeCmd k s.freeDrawn)) { s with freeDrawn := s.freeDrawn + 1 })) ∧
  (∀ (ss : List State) (k : Nat) (s : State), ss[k]? = some s → ∃ t, (stepInstances ss)[k]? = some (.next t)) ∧
  (∀ (ss : List State) (k : Nat), ss[k]? = none → (stepInstances ss)[k]? = none) ∧
  (∀ (ss : List State) (j k : Nat) (s : State), j ≠ k → (stepInstances (ss.set j s))[k]? = (stepInstances ss)[k]?) ∧
  (∀ s : State, stepInstances [s] = [step s])

/-! ## Reset and invariants -/

/-- R21: after initialisation the register is `Start`, code 0, and so it is after RESET; the first PROCESS reads the `Start`
row, ROM addresses 0..3; the outputs of the first tick follow from `Start` and that tick's inputs. -/
def Obligations.RegisterStartsInStart : Prop :=
  State.reset.state = .start ∧ encState State.reset.state = 0#3 ∧
  (∀ s : State, ∃ t, exec .reset s = .next t ∧ t.state = .start ∧ encState t.state = 0#3) ∧
  (∀ sym : Sym, (romAddr State.reset.state sym).toNat = sym.toNat) ∧
  (∀ c : CmdWord, ∃ t, step (presentWord State.reset c) = .next t ∧
    dirPort .start c = some t.dirO ∧ statePort .start = t.stateO)

/-- From `Start`, so on every first tick, `state_o` is 0 and `dir_o` is None, whatever the environment presents
(`70_reset_and_hazards.md` section 1). -/
def Obligations.FirstTickShowsStartAndNone : Prop :=
  ∀ s : State, s.state = .start → ∃ t, step s = .next t ∧ t.stateO = 0#3 ∧ t.dirO = dirCode .none

/-- Legal ports are kept by every step: no unused code is shown, and a direction stands beside the register back in `Start`
after a tick that began in its final state (`30_encoding.md` section 3, `41_transition_table.md` section 9; codes D6, D7; that
State records the ports of the last tick is the model's choice, log entry 3). -/
def Obligations.PortsStayLegal : Prop :=
  ∀ s t : State, PortsLegal s → step s = .next t → PortsLegal t

/-- The invariant behind the cycle languages: if the history since `Start` fits the register, then after any tick, on any
presented word, the history continued by that tick fits again (`41_transition_table.md` section 9; D10, D12). -/
def Obligations.HistoryKeepsFitting : Prop :=
  ∀ (h : List Sym) (s t : State), HistoryFits h s → step s = .next t →
    HistoryFits (sinceStart h (decode (presented s)) t.state) t

/-- Both invariants hold at reset, and the empty history fits every state in `Start` (the register's reset value, `10_state.md`
section 5; the histories, `41_transition_table.md` section 9). That State records the two ports, and so that they have a value
at reset, is the model's choice, log entry 3; the values are those of every first tick (`70_reset_and_hazards.md` section 1). -/
def Obligations.InvariantsHoldAtReset : Prop :=
  PortsLegal State.reset ∧ HistoryFits [] State.reset ∧ ∀ s : State, s.state = .start → HistoryFits [] s
end

