-- ==== Sys2Proof/Laws/State.lean ====
section
/-! SUPPORT. Sys2Proof/Laws/State.lean: one lemma for each field under each update of State, so that no proof unfolds one. -/

namespace Sys2Proof.Machine

variable (s : State) (d : Direction) (S' : DecoderState) (c : CmdWord)

@[simp] theorem tick_state : (tick d S' s).state = S' := rfl
@[simp] theorem tick_dirO : (tick d S' s).dirO = dirCode d := rfl
@[simp] theorem tick_stateO : (tick d S' s).stateO = encState s.state := rfl
@[simp] theorem tick_cmds : (tick d S' s).cmds = s.cmds := rfl
@[simp] theorem tick_freeDrawn : (tick d S' s).freeDrawn = s.freeDrawn := rfl

@[simp] theorem presentWord_state : (presentWord s c).state = s.state := rfl
@[simp] theorem presentWord_dirO : (presentWord s c).dirO = s.dirO := rfl
@[simp] theorem presentWord_stateO : (presentWord s c).stateO = s.stateO := rfl
@[simp] theorem presentWord_cmds : (presentWord s c).cmds = c :: s.cmds.drop 1 := rfl
@[simp] theorem presentWord_freeDrawn : (presentWord s c).freeDrawn = s.freeDrawn := rfl

@[simp] theorem nextInput_state : (nextInput s).state = s.state := by unfold nextInput; split <;> rfl
@[simp] theorem nextInput_dirO : (nextInput s).dirO = s.dirO := by unfold nextInput; split <;> rfl
@[simp] theorem nextInput_stateO : (nextInput s).stateO = s.stateO := by unfold nextInput; split <;> rfl

theorem presentedFrom_cons (source : Nat) (cs : List CmdWord) (h : s.cmds = c :: cs) : presentedFrom source s = c := by
  simp [presentedFrom, h]

theorem presentedFrom_nil (source : Nat) (h : s.cmds = []) :
    presentedFrom source s = Config.freeCmd source s.freeDrawn := by
  simp [presentedFrom, h]

theorem presented_cons (cs : List CmdWord) (h : s.cmds = c :: cs) : presented s = c := presentedFrom_cons s c 0 cs h

theorem presented_nil (h : s.cmds = []) : presented s = Config.freeCmd 0 s.freeDrawn := presentedFrom_nil s 0 h

theorem nextInput_cons (cs : List CmdWord) (h : s.cmds = c :: cs) : nextInput s = { s with cmds := cs } := by
  simp [nextInput, h]

theorem nextInput_nil (h : s.cmds = []) : nextInput s = { s with freeDrawn := s.freeDrawn + 1 } := by
  simp [nextInput, h]

@[simp] theorem presentedFrom_presentWord (source : Nat) : presentedFrom source (presentWord s c) = c := rfl

@[simp] theorem presented_presentWord : presented (presentWord s c) = c := rfl

@[simp] theorem nextInput_presentWord : nextInput (presentWord s c) = { s with cmds := s.cmds.drop 1 } := rfl

/-- Two states that agree in every field are equal. -/
theorem State.eq_of_fields {s t : State} (h1 : s.state = t.state) (h2 : s.dirO = t.dirO) (h3 : s.stateO = t.stateO)
    (h4 : s.cmds = t.cmds) (h5 : s.freeDrawn = t.freeDrawn) : s = t := by
  cases s; cases t; simp_all

end Sys2Proof.Machine
end

