-- ==== Sys2Proof/Laws/Ops.lean ====
section
/-! SUPPORT. Sys2Proof/Laws/Ops.lean: what each shared operation can do, said once: codes, the classifier, the ROM and its lookup,
the three meanings, and a trace. -/

namespace Sys2Proof.Machine

/-! ## Codes -/

@[simp] theorem decState_encState (S : DecoderState) : decState (encState S) = .ok S := by cases S <;> rfl

@[simp] theorem decDir_dirCode (d : Direction) : decDir (dirCode d) = .ok d := by cases d <;> rfl

theorem encState_injective {S S' : DecoderState} (h : encState S = encState S') : S = S' := by
  have := congrArg decState h
  simpa using this

theorem dirCode_injective {d d' : Direction} (h : dirCode d = dirCode d') : d = d' := by
  have := congrArg decDir h
  simpa using this

/-- The event test on a code is the test on the direction it stands for. -/
@[simp] theorem isEvent_dirCode (d : Direction) : isEvent (dirCode d) = decide (d ≠ .none) := by cases d <;> rfl

/-! ## The classifier -/

/-- Every symbol is the classification of one pair of pin levels. -/
theorem classify_bits (sym : Sym) : classify (sym.getLsbD 0) (sym.getLsbD 1) = sym := by revert sym; decide

theorem classify_injective {a b a' b' : Bool} (h : classify a b = classify a' b') : a = a' ∧ b = b' := by
  revert h; cases a <;> cases b <;> cases a' <;> cases b' <;> decide

/-- Case analysis over symbols, in the order 00, 01, 10, 11. -/
theorem Sym.cases_written {P : Sym → Prop} (h00 : P 0b00#2) (h01 : P 0b01#2) (h10 : P 0b10#2) (h11 : P 0b11#2) (sym : Sym) :
    P sym := by
  have : sym = 0b00#2 ∨ sym = 0b01#2 ∨ sym = 0b10#2 ∨ sym = 0b11#2 := by revert sym; decide
  rcases this with rfl | rfl | rfl | rfl <;> assumption

/-! ## The ROM -/

/-- The image is in canonical form. No operation writes it, so there is no other form to keep. -/
theorem rom_wf : Memory.wf rom = true := by decide

/-- The lookup answers the entry of the table, for every state and symbol. -/
@[simp] theorem romLookup_eq_TT (S : DecoderState) (sym : Sym) : romLookup S sym = .ok (TT S sym) := by
  refine Sym.cases_written (P := fun x => romLookup S x = .ok (TT S x)) ?_ ?_ ?_ ?_ sym <;> cases S <;> rfl

/-! ## The meanings -/

/-- PROCESS answers the tick of its table entry. -/
theorem execProcess_eq (a b : Bool) (s : State) :
    execProcess a b s = .next (tick (TT s.state (classify a b)).2 (TT s.state (classify a b)).1 s) := by
  simp [execProcess]

/-- What an operation does on names: next state and direction. -/
def effect (S : DecoderState) : Instr → DecoderState × Direction
  | .inspect => (S, .none)
  | .process a b => TT S (classify a b)
  | .reset => (.start, .none)

/-- Every operation answers one tick, of its effect on names. -/
theorem exec_eq_tick (i : Instr) (s : State) : exec i s = .next (tick (effect s.state i).2 (effect s.state i).1 s) := by
  cases i with
  | inspect => rfl
  | process a b => exact execProcess_eq a b s
  | reset => rfl

/-- If an operation answers a state, it is the tick of its effect. -/
theorem exec_next_iff {i : Instr} {s t : State} :
    exec i s = .next t ↔ t = tick (effect s.state i).2 (effect s.state i).1 s := by
  rw [exec_eq_tick, Host.Outcome.next.injEq]
  exact eq_comm

/-- A step performs the presented command on the state whose input has moved on. -/
theorem step_eq_tick (s : State) :
    step s = .next (tick (effect s.state (decode (presented s))).2 (effect s.state (decode (presented s))).1 (nextInput s)) := by
  rw [step, exec_eq_tick, nextInput_state]

/-! ## Instances -/

/-- The one decoder that `step` runs is fed by source 0. -/
theorem stepFrom_zero (s : State) : stepFrom 0 s = step s := rfl

/-- A step fed by any source performs the command that source presents. -/
theorem stepFrom_eq_tick (source : Nat) (s : State) :
    stepFrom source s = .next (tick (effect s.state (decode (presentedFrom source s))).2
      (effect s.state (decode (presentedFrom source s))).1 (nextInput s)) := by
  rw [stepFrom, exec_eq_tick, nextInput_state]

/-- The source does not matter on a tick whose word is listed. -/
theorem stepFrom_listed (source : Nat) {s : State} {c : CmdWord} {cs : List CmdWord} (h : s.cmds = c :: cs) :
    stepFrom source s = step s := by
  rw [stepFrom, step, presentedFrom_cons s c source cs h, presented_cons s c cs h]

/-- The result of one instance, at its place in the list. -/
theorem getElem?_stepInstances (ss : List State) (k : Nat) : (stepInstances ss)[k]? = (ss[k]?).map (stepFrom k) :=
  List.getElem?_mapIdx

/-! ## Traces -/

@[simp] theorem runTrace_nil (s : State) : runTrace [] s = .next ([], s) := rfl

/-- A trace that begins with a command: its tick, then the rest. -/
theorem runTrace_cons {i : Instr} {is : List Instr} {s t u : State} {ds : List DirCode} (hi : exec i s = .next t)
    (hs : runTrace is t = .next (ds, u)) : runTrace (i :: is) s = .next (t.dirO :: ds, u) := by
  simp [runTrace, hi, hs]

/-- Every trace runs to its end. -/
theorem runTrace_total (is : List Instr) (s : State) : ∃ ds u, runTrace is s = .next (ds, u) := by
  induction is generalizing s with
  | nil => exact ⟨[], s, rfl⟩
  | cons i is ih =>
    obtain ⟨ds, u, h⟩ := ih (tick (effect s.state i).2 (effect s.state i).1 s)
    exact ⟨_, _, runTrace_cons (exec_eq_tick i s) h⟩

end Sys2Proof.Machine
end

