-- ==== Sys2Proof/Laws/PerInstr.lean ====
section
/-! SUPPORT. Sys2Proof/Laws/PerInstr.lean: statements for each operation as a command word, one lemma a constructor. -/

namespace Sys2Proof.Laws

/-- The canonical word of an operation hits its own row of the opcode map and no other (`30_encoding.md` R51, R62). -/
def OwnRow.Statement (i : Instr) : Prop :=
  (opRows.filter (fun r => r.hits (encode i))).map OpRow.mnemonic = [i.mnemonic]

theorem OwnRow.inspect : OwnRow.Statement .inspect := by unfold OwnRow.Statement; decide

theorem OwnRow.process (a b : Bool) : OwnRow.Statement (.process a b) := by
  unfold OwnRow.Statement; cases a <;> cases b <;> decide

theorem OwnRow.reset : OwnRow.Statement .reset := by unfold OwnRow.Statement; decide

end Sys2Proof.Laws
end

