-- ==== Sys2Proof/Laws/Tables.lean ====
section
/-! SUPPORT. Sys2Proof/Laws/Tables.lean: the small lemmas of commands, symbol lists and traces over any transition table. -/

namespace Sys2Proof.Safety

open Sys2Proof Sys2Proof.Machine

variable (T : Table) (S : DecoderState)

@[simp] theorem tableCommand_inspect : tableCommand T S .inspect = (S, .none) := rfl
@[simp] theorem tableCommand_process (a b : Bool) : tableCommand T S (.process a b) = T S (classify a b) := rfl
@[simp] theorem tableCommand_reset : tableCommand T S .reset = (.start, .none) := rfl

@[simp] theorem runTable_nil : runTable T S [] = ([], S) := rfl
@[simp] theorem runTable_cons (x : Sym) (xs : List Sym) :
    runTable T S (x :: xs) = ((T S x).2 :: (runTable T (T S x).1 xs).1, (runTable T (T S x).1 xs).2) := rfl

@[simp] theorem runCommands_nil : runCommands T S [] = ([], S) := rfl
@[simp] theorem runCommands_cons (i : Instr) (is : List Instr) :
    runCommands T S (i :: is) =
      ((tableCommand T S i).2 :: (runCommands T (tableCommand T S i).1 is).1,
        (runCommands T (tableCommand T S i).1 is).2) := rfl

/-- What agreement with the document says of one entry: it is this block's entry, or an open one without a direction. -/
theorem AgreesWithDocument.entry {T : Table} (h : AgreesWithDocument T) (S : DecoderState) (sym : Sym) :
    T S sym = TT S sym ∨ (S, sym) ∈ openEntries ∧ (T S sym).2 = .none :=
  (Classical.em ((S, sym) ∈ openEntries)).elim (fun hm => .inr ⟨hm, h.2 S sym hm⟩) (fun hm => .inl (h.1 S sym hm))

end Sys2Proof.Safety
end

