-- ==== Sys2Proof/Tests/Slice0.lean ====
section
/-! SUPPORT. Sys2Proof/Tests/Slice0.lean: the smoke test of the well-formedness checks, decoding of words written out from the spec,
single ticks taken from the spec's vectors (`95_test_vectors.md`), and a witness for every statement with hypotheses. -/

namespace Sys2Proof.Tests

open Sys2Proof Sys2Proof.Machine Sys2Proof.Safety

/-- A state with a register value and listed command words. -/
def inState (S : DecoderState) (cmds : List CmdWord) : State := { State.reset with state := S, cmds := cmds }

/-- The register and the two ports a tick left, if it answered a state. -/
def seen : Host.Outcome State Fault Refusal → Option (DecoderState × DirCode × StateCode)
  | .next t => some (t.state, t.dirO, t.stateO)
  | .fault _ => none
  | .refused _ => none

/-! ## Well-formedness: each check refuses an ill-formed term -/

theorem test_cmd_number_refuses_16 : cmdNumberOk 16 = false ∧ cmdNumberOk 15 = true := by decide
theorem test_state_code_refuses_7 : stateCodeOk 7#3 = false ∧ stateCodeOk 6#3 = true := by decide
theorem test_dir_code_refuses_3 : dirCodeOk 3#2 = false ∧ dirCodeOk 2#2 = true := by decide
theorem test_rom_addr_refuses_28 : romAddrOk 28#5 = false ∧ romAddrOk 27#5 = true := by decide
theorem test_rom_bits_refuse_spare : romBitsOk 0x80#8 = false ∧ romBitsOk 0x40#8 = false ∧ romBitsOk 0x08#8 = false := by decide
theorem test_rom_word_refuses_dir_3_next_7 :
    romWordOk 0x30#8 = false ∧ romWordOk 0x07#8 = false ∧ romWordOk 0x08#8 = false ∧ romWordOk 0x26#8 = true := by decide
theorem test_repeat_refuses_0 :
    (TraceItem.repeated true false 0).wellFormed = false ∧ (TraceItem.repeated true false 1).wellFormed = true := by decide
theorem test_commands_are_wellFormed :
    Instr.inspect.wellFormed = true ∧ (Instr.process true false).wellFormed = true ∧ Instr.reset.wellFormed = true := by decide

/-! ## Decoding: words written out bit by bit from `30_encoding.md` R50, R51, R60 -/

theorem test_decode_inspect : decode 0b0000#4 = .inspect ∧ decode 0b0011#4 = .inspect := by decide
theorem test_decode_process : decode 0b0101#4 = .process true false ∧ decode 0b0110#4 = .process false true := by decide
theorem test_decode_reset : decode 0b1000#4 = .reset ∧ decode 0b1100#4 = .reset := by decide
theorem test_encode_canonical : encode .inspect = 0x0#4 ∧ encode (.process true false) = 0x5#4 ∧ encode .reset = 0x8#4 := by decide
theorem test_decodeTableWord :
    decodeTableWord 8 0x0 = some .inspect ∧ decodeTableWord 8 0x4 = some (.process false false) ∧
    decodeTableWord 8 0x8 = some .reset := by decide

/-- `95_test_vectors.md` V51, V52: `b = 1, a = 0` is 2; `b = 0, a = 1` is 1. -/
theorem test_symbol_packing : classify false true = 2#2 ∧ classify true false = 1#2 := by decide

/-- `95_test_vectors.md` V53, V54: the largest and the smallest address. -/
theorem test_rom_addr : romAddr .ccwFinal 3#2 = 0b11011#5 ∧ romAddr .start 0#2 = 0#5 := by decide

/-- `95_test_vectors.md` V55 to V57. -/
theorem test_rom_fields :
    romNext 0x10#8 = 0#3 ∧ romDir 0x10#8 = 1#2 ∧ romNext 0x20#8 = 0#3 ∧ romDir 0x20#8 = 2#2 ∧
    romNext 0x06#8 = 6#3 ∧ romDir 0x06#8 = 0#2 := by decide

/-- `20_memory.md` R31, the flat list of bytes. -/
theorem test_rom_image : rom.map Prod.snd =
    [0x00, 0x01, 0x04, 0x00, 0x00, 0x01, 0x00, 0x02, 0x00, 0x00, 0x03, 0x02, 0x10, 0x00, 0x03, 0x02] ++
    [0x00, 0x00, 0x04, 0x05, 0x00, 0x06, 0x00, 0x05, 0x20, 0x06, 0x00, 0x05] := by decide

/-- A word that is none of the format is refused by name (U4, U2, U1). -/
theorem test_unpack_refuses : unpackWord 0x40#8 = .error .romBitsNotZero ∧
    unpackWord 0x30#8 = .error .directionCodeUnused ∧ unpackWord 0x07#8 = .error .stateCodeUnused := ⟨rfl, rfl, rfl⟩

/-- The event lines of `30_encoding.md` R55. -/
theorem test_event_lines :
    cwPulse (dirCode .clockwise) = true ∧ ccwPulse (dirCode .clockwise) = false ∧
    cwPulse (dirCode .counterClockwise) = false ∧ ccwPulse (dirCode .counterClockwise) = true := by decide

/-! ## Single ticks -/

/-- `95_test_vectors.md` V13: the closing tick shows `Clockwise` and the state before the edge. -/
theorem test_process_closes_clockwise :
    seen (exec (.process false false) (inState .cwFinal [])) = some (.start, 1#2, 3#3) := by decide

/-- `95_test_vectors.md` V28, conflict C1: `(CcwFinal, 11)` steps back and shows nothing. -/
theorem test_process_steps_back :
    seen (exec (.process true true) (inState .ccwFinal [])) = some (.ccwNext, 0#2, 6#3) := by decide

/-- `95_test_vectors.md` V48f. -/
theorem test_inspect : seen (exec .inspect (inState .ccwNext [])) = some (.ccwNext, 0#2, 5#3) := by decide

/-- `95_test_vectors.md` V47d. -/
theorem test_reset : seen (exec .reset (inState .cwFinal [])) = some (.start, 0#2, 3#3) := by decide

/-- `95_test_vectors.md` V29, word 0xC: RESET wins over a sample that would have closed a cycle. -/
theorem test_reset_wins : seen (step (inState .cwFinal [0xC#4])) = some (.start, 0#2, 3#3) := by decide

/-- `95_test_vectors.md` V2 as the first tick after reset, with the word placed by `withFetchWord`. -/
theorem test_first_tick : seen (step (State.reset.withFetchWord 8 5)) = some (.cwBegin, 0#2, 0#3) := by decide

/-- The words of later ticks keep their ticks when one is placed on the coming tick. -/
theorem test_withFetchWord_keeps_later : ((inState .start [0x1#4, 0x2#4]).withFetchWord 8 5).cmds = [0x5#4, 0x2#4] := by decide

/-- `30_encoding.md` R60 and R61: a written trace, and an ill-formed repeat refused. -/
theorem test_trace_text :
    parseTrace ['C', 'W', ';', 'P', ' ', '0', '1', ' ', '*', '2', '\n', 'R'] =
      some [.cw, .repeated true false 2, .command .reset] ∧
    parseTrace ['P', ' ', '0', '1', ' ', '*', '0'] = none := by decide

/-- `30_encoding.md` R59: the bracket form; R61: the expansion of `CW` is that sequence. -/
theorem test_bracketed :
    parseBracketed ['[', '0', '1', ',', ' ', '1', '1', ',', ' ', '1', '0', ',', '0', '0', ']'] = some TraceItem.cw.expand := by
  decide

/-- DESIGN CHOICE, log entry 14: a space inside a symbol is dropped in the bracket form and refused after `P`. -/
theorem test_space_inside_symbol :
    parseBracketed ['[', '0', ' ', '1', ',', '1', ' ', '1', ']'] = some [sample false true, sample true true] ∧
    parseTrace ['P', ' ', '0', ' ', '1'] = none := by decide

/-! ## Witnesses: a concrete state and operands that meet the hypotheses of each statement -/

theorem witness_WordsAndCommandsAgree : (Instr.process true true).wellFormed = true := by decide

theorem witness_PinsMakeTheSymbol :
    cmdRst (presented (inState .start [0x6#4])) = false ∧ cmdEn (presented (inState .start [0x6#4])) = true := by decide

theorem witness_UnusedStartCodeIsRefused : (6#3 : StateCode) ≠ 7#3 := by decide

theorem witness_StepPerformsTheDecodedCommand :
    decode (presented (inState .cwNext [0x7#4, 0x8#4])) = .process true true ∧
    (inState .cwNext [0x7#4, 0x8#4]).cmds = [0x7#4, 0x8#4] ∧ State.reset.cmds = [] := by decide

/-- RESET words 0x8 and 0xF; INSPECT words 0x0 and 0x3. -/
theorem witness_UnusedCommandBitsHaveNoEffect :
    (0x8#4 : CmdWord) &&& usedBits (decode 0x8#4) = 0xF#4 &&& usedBits (decode 0x8#4) ∧
    (0x0#4 : CmdWord) &&& usedBits (decode 0x0#4) = 0x3#4 &&& usedBits (decode 0x0#4) := by decide

theorem witness_ResetWinsOverTheSample : cmdRst (presented (inState .cwFinal [0xC#4])) = true := by decide

theorem witness_ProcessDependsOnStateAndPinsAlone :
    (inState .cwFinal [0x1#4]).state = { inState .cwFinal [] with dirO := 2#2, freeDrawn := 5 }.state := by decide

theorem witness_ResetForcesStart :
    exec .reset (inState .cwNext []) = .next (tick .none .start (inState .cwNext [])) ∧
    exec .reset (tick .none .start (inState .cwNext [])) = .next (tick .none .start (tick .none .start (inState .cwNext []))) ∧
    (0xB#4 : CmdWord).getLsbD 3 = true := ⟨rfl, rfl, by decide⟩

theorem witness_InspectShowsAndKeeps : (0x2#4 : CmdWord).getLsbD 3 = false ∧ (0x2#4 : CmdWord).getLsbD 2 = false := by decide

/-- A PROCESS tick and a RESET tick that change the register. -/
theorem witness_OnlyProcessAndResetWriteTheRegister :
    (∃ t, step (inState .start [0x6#4]) = .next t ∧ t.state ≠ (inState .start [0x6#4]).state) ∧
    (∃ t, step (inState .ccwNext [0x9#4]) = .next t ∧ t.state ≠ (inState .ccwNext [0x9#4]).state) :=
  ⟨⟨_, rfl, by decide⟩, ⟨_, rfl, by decide⟩⟩

/-- One for each of the three operations. -/
theorem witness_OperationsLeaveTheInputAlone :
    (∃ t, exec .inspect (inState .cwNext [0x3#4]) = .next t) ∧
    (∃ t, exec (.process true false) (inState .cwNext [0x3#4]) = .next t) ∧
    (∃ t, exec .reset (inState .cwNext [0x3#4]) = .next t) := ⟨⟨_, rfl⟩, ⟨_, rfl⟩, ⟨_, rfl⟩⟩

/-- The hypothesis of `EntryIs` is met in each of the seven states. -/
theorem witness_EntryIs (S : DecoderState) : (inState S []).state = S := rfl

theorem witness_RomIsPopulatedTo27 : 28 ≤ 28 ∧ 27 < 28 := by decide

theorem witness_CleanCyclesEmitOnce : (inState .start [0x5#4]).state = .start := rfl

/-- An event tick, and a trace of three samples from `Start`. -/
theorem witness_EventsAreFourSamplesApart :
    (∃ t, exec (.process false false) (inState .ccwFinal []) = .next t ∧ isEvent t.dirO = true) ∧
    (inState .start []).state = .start ∧ samples [sample false true, .inspect, sample true true, sample true false] < 4 :=
  ⟨⟨_, rfl, by decide⟩, rfl, by decide⟩

/-- A history with one excursion from the final state back and forward again; one in each sense. -/
theorem witness_EventsCloseAWordOfTheCycle :
    HistoryFits [1#2, 1#2, 3#2, 2#2, 3#2, 2#2] (inState .cwFinal []) ∧ HistoryFits [2#2, 3#2, 1#2] (inState .ccwFinal []) :=
  ⟨(RegularExpression.rmatch_iff_matches' _ _).mp (by decide), (RegularExpression.rmatch_iff_matches' _ _).mp (by decide)⟩

/-- A table other than the block's: every open entry goes to `Start`. -/
def forgetful : Table := fun S sym => if (S, sym) ∈ openEntries then (.start, .none) else TT S sym

theorem witness_DocumentEntriesSuffice : AgreesWithDocument forgetful :=
  ⟨fun S sym h => by simp [forgetful, h], fun S sym h => by simp [forgetful, h]⟩

theorem witness_EventLastsOneTick :
    ∃ t, exec (.process false false) (inState .cwFinal []) = .next t ∧ isEvent t.dirO = true := ⟨_, rfl, by decide⟩

/-- A listed word and none, at the places 0 and 1; two places; a place past the end. -/
theorem witness_InstancesAreIndependent :
    [inState .cwFinal [0x4#4], State.reset][0]? = some (inState .cwFinal [0x4#4]) ∧
    (inState .cwFinal [0x4#4]).cmds = [0x4#4] ∧
    [inState .cwFinal [0x4#4], State.reset][1]? = some State.reset ∧ State.reset.cmds = [] ∧
    [inState .cwFinal [0x4#4], State.reset][2]? = none ∧ (0 : Nat) ≠ 1 := by decide

/-- `60_exceptions.md` R160 with V13 and V47b: two instances with listed words, each by its own state and word. -/
theorem test_two_instances :
    (stepInstances [inState .cwFinal [0x4#4], inState .cwBegin [0x8#4]]).map seen =
      [some (.start, 1#2, 3#3), some (.start, 0#2, 1#3)] := by decide

/-- `60_exceptions.md` R160, R176: two freshly reset instances draw their free words from sources of their own. -/
theorem test_instances_draw_from_own_sources :
    stepInstances [State.reset, State.reset] =
      [exec (decode (Config.freeCmd 0 0)) (nextInput State.reset), exec (decode (Config.freeCmd 1 0)) (nextInput State.reset)] :=
  rfl

theorem witness_FirstTickShowsStartAndNone : State.reset.state = .start := rfl

/-- The state an event tick leaves, with a further command listed. -/
theorem witness_PortsStayLegal :
    PortsLegal { inState .start [0x5#4] with dirO := 1#2, stateO := 3#3 } ∧
    ∃ t, step { inState .start [0x5#4] with dirO := 1#2, stateO := 3#3 } = .next t :=
  ⟨by constructor <;> decide, ⟨_, rfl⟩⟩

/-- A PROCESS tick that extends a history, a RESET tick that empties one, an INSPECT tick that keeps one. -/
theorem witness_HistoryKeepsFitting :
    HistoryFits [1#2, 3#2] (inState .cwNext [0x6#4]) ∧ (∃ t, step (inState .cwNext [0x6#4]) = .next t) ∧
    (∃ t, step (inState .cwNext [0x8#4]) = .next t) ∧ (∃ t, step (inState .cwNext [0x0#4]) = .next t) :=
  ⟨(RegularExpression.rmatch_iff_matches' _ _).mp (by decide), ⟨_, rfl⟩, ⟨_, rfl⟩, ⟨_, rfl⟩⟩

theorem witness_InvariantsHoldAtReset : (inState .start [0xF#4]).state = .start := rfl

end Sys2Proof.Tests
end

section
/-! The tick of the machine against the step function of the block on names (`00_scope.md` R8). -/

namespace Sys2Proof.Machine

/-- The block's step on a command word is the effect on names of the command the word decodes to. -/
theorem blockStep_eq_effect (S : DecoderState) (c : CmdWord) : blockStep S c = effect S (decode c) := by
  unfold blockStep
  cases decode c with
  | inspect => rfl
  | process a b => rfl
  | reset => rfl

/-- A step is one tick of what the block's step function answers for the register and the presented word. -/
theorem step_eq_tick_blockStep (s : State) :
    step s = .next
      (tick (blockStep s.state (presented s)).2 (blockStep s.state (presented s)).1 (nextInput s)) := by
  rw [blockStep_eq_effect, step_eq_tick]

/-- Settles O9: the tick loads the next state and shows the direction that the block's step function answers. -/
theorem tickIsTheBlockStep : Obligations.TickIsTheBlockStep := by
  intro s
  exact ⟨_, (blockStep s.state (presented s)).2, step_eq_tick_blockStep s, by rw [tick_state], tick_dirO ..⟩

end Sys2Proof.Machine
end

section
/-! The register and the two ports of a tick (`10_state.md` R13, R21; `20_memory.md` R32; `40_process.md` R76). -/

namespace Sys2Proof.Machine

/-! ## What a tick does to the register -/

@[simp] theorem effect_inspect (S : DecoderState) : effect S .inspect = (S, .none) := rfl
@[simp] theorem effect_process (S : DecoderState) (a b : Bool) : effect S (.process a b) = TT S (classify a b) := rfl
@[simp] theorem effect_reset (S : DecoderState) : effect S .reset = (.start, .none) := rfl

/-- Every operation loads the next state of its effect and shows the register as it was before the edge. -/
theorem exec_register (i : Instr) (s : State) :
    ∃ t, exec i s = .next t ∧ t.state = (effect s.state i).1 ∧ t.stateO = encState s.state :=
  ⟨_, exec_eq_tick i s, tick_state .., tick_stateO ..⟩

/-- The register after a step is the next state of the presented command's effect. -/
theorem step_next_state {s t : State} (h : step s = .next t) :
    t.state = (effect s.state (decode (presented s))).1 := by
  rw [step_eq_tick, Host.Outcome.next.injEq] at h
  rw [← h, tick_state]

/-- Settles O19: each operation loads its effect's next state, and INSPECT's effect is to keep the register. -/
theorem onlyProcessAndResetWriteTheRegister : Obligations.OnlyProcessAndResetWriteTheRegister := by
  refine ⟨exec_register .inspect, fun a b => exec_register (.process a b), exec_register .reset, fun s t hstep hchange => ?_⟩
  have hload := step_next_state hstep
  cases hcmd : decode (presented s) with
  | inspect => exact absurd (by simpa [hcmd] using hload) hchange
  | process a b => exact .inr ⟨a, b, rfl⟩
  | reset => exact .inl rfl

/-! ## The ROM address and the direction port -/

/-- `addr = enc(state) * 4 + sym` as numbers: five bits hold every address. -/
theorem romAddr_toNat (S : DecoderState) (sym : Sym) : (romAddr S sym).toNat = (encState S).toNat * 4 + sym.toNat := by
  have hS := (encState S).isLt
  have hsym := sym.isLt
  simp only [romAddr, BitVec.toNat_add, BitVec.toNat_mul, BitVec.toNat_setWidth, BitVec.toNat_ofNat]
  omega

/-- The direction field of the ROM word at an entry's address is the code of the entry's direction. -/
theorem romRead_map_romDir (S : DecoderState) (sym : Sym) :
    (romRead (romAddr S sym)).map romDir = some (dirCode (TT S sym).2) := by
  refine Sym.cases_written (P := fun x => (romRead (romAddr S x)).map romDir = some (dirCode (TT S x).2))
    ?_ ?_ ?_ ?_ sym <;> cases S <;> rfl

/-- The port formula of R76 shows the direction that the block's step function answers, on every command word. -/
theorem dirPort_eq_blockStep (S : DecoderState) (c : CmdWord) : dirPort S c = some (dirCode (blockStep S c).2) := by
  unfold dirPort blockStep decode
  cases cmdRst c with
  | true => rfl
  | false =>
    cases cmdEn c with
    | true => simp [romRead_map_romDir]
    | false => rfl

/-- On every step the two recorded ports are those of the port formulas, from the register and the presented word. -/
theorem step_ports (s : State) :
    ∃ t, step s = .next t ∧ dirPort s.state (presented s) = some t.dirO ∧ statePort s.state = t.stateO :=
  ⟨_, step_eq_tick_blockStep s, by rw [dirPort_eq_blockStep, tick_dirO], by rw [statePort, tick_stateO, nextInput_state]⟩

/-- Settles O41: `Start` has code 0, so its row is at addresses 0 to 3; RESET loads it; the ports of the first tick are the
port formulas of `Start` and the presented word. -/
theorem registerStartsInStart : Obligations.RegisterStartsInStart := by
  refine ⟨rfl, rfl, fun s => ?_, fun sym => ?_, fun c => step_ports (presentWord State.reset c)⟩
  · obtain ⟨t, hexec, hstart, -⟩ := exec_register .reset s
    exact ⟨t, hexec, hstart, congrArg encState hstart⟩
  · have hcode : (encState State.reset.state).toNat = 0 := rfl
    rw [romAddr_toNat, hcode, Nat.zero_mul, Nat.zero_add]

end Sys2Proof.Machine
end

section
/-! Traces compose from left to right, and a run of the machine on listed words is the trace of their commands
(`20_memory.md` R39). -/

namespace Sys2Proof.Machine

/-! ## Composition of traces -/

/-- What a trace that begins with a command can answer: the command's tick, then the rest from the state it left. -/
theorem runTrace_cons_inv {i : Instr} {is : List Instr} {s u : State} {ds : List DirCode}
    (h : runTrace (i :: is) s = .next (ds, u)) :
    ∃ t es, exec i s = .next t ∧ runTrace is t = .next (es, u) ∧ ds = t.dirO :: es := by
  have hi := exec_eq_tick i s
  obtain ⟨es, v, hs⟩ := runTrace_total is (tick (effect s.state i).2 (effect s.state i).1 s)
  have hboth := h.symm.trans (runTrace_cons hi hs)
  simp only [Host.Outcome.next.injEq, Prod.mk.injEq] at hboth
  obtain ⟨hds, rfl⟩ := hboth
  exact ⟨_, es, hi, hs, hds⟩

/-- A second trace run from where a first one ended is the run of both, the results one after the other. -/
theorem runTrace_append {is js : List Instr} {s t u : State} {ds es : List DirCode}
    (his : runTrace is s = .next (ds, t)) (hjs : runTrace js t = .next (es, u)) :
    runTrace (is ++ js) s = .next (ds ++ es, u) := by
  induction is generalizing s ds with
  | nil =>
    simp only [runTrace_nil, Host.Outcome.next.injEq, Prod.mk.injEq] at his
    obtain ⟨rfl, rfl⟩ := his
    exact hjs
  | cons i is ih =>
    obtain ⟨s', ds', hi, hrest, rfl⟩ := runTrace_cons_inv his
    exact runTrace_cons hi (ih hrest)

/-! ## Listed command words -/

/-- The canonical word of a command decodes to that command. -/
@[simp] theorem decode_encode (i : Instr) : decode (encode i) = i := by
  cases i with
  | inspect => rfl
  | process a b => cases a <;> cases b <;> rfl
  | reset => rfl

/-- An operation does the same whatever words are listed, and leaves them listed. -/
theorem exec_withCmds {i : Instr} {s t : State} (h : exec i s = .next t) (cs : List CmdWord) :
    exec i { s with cmds := cs } = .next { t with cmds := cs } := by
  rw [exec_next_iff] at h ⊢
  rw [h]
  rfl

/-- A step whose listed word is a command's canonical word performs that command on the words after it. -/
theorem step_listed_encode (i : Instr) (s : State) (cs : List CmdWord) :
    step { s with cmds := encode i :: cs } = exec i { s with cmds := cs } := by
  rw [step, presented_cons _ (encode i) cs rfl, nextInput_cons _ (encode i) cs rfl, decode_encode]

/-- A run of any machine that starts with a step goes on from the state the step answers. -/
theorem coreRun_succ {M : Host.Core} {s t : M.State} (h : M.step s = .next t) (k : Nat) :
    M.run (k + 1) s = M.run k t := by
  simp only [Host.Core.run, h]

/-- The listed words of a trace, run as many steps as it has commands, end where the trace ends: no operation touches
the words that are listed after them. -/
theorem coreRun_listed {is : List Instr} {s u : State} {ds : List DirCode} (h : runTrace is s = .next (ds, u)) :
    core.run is.length { s with cmds := is.map encode ++ s.cmds } = .next u := by
  induction is generalizing s ds with
  | nil =>
    simp only [runTrace_nil, Host.Outcome.next.injEq, Prod.mk.injEq] at h
    obtain ⟨-, rfl⟩ := h
    rfl
  | cons i is ih =>
    obtain ⟨t, es, hi, hrest, -⟩ := runTrace_cons_inv h
    have hcmds : t.cmds = s.cmds := by rw [exec_next_iff.mp hi, tick_cmds]
    have hstep : step { s with cmds := encode i :: (is.map encode ++ s.cmds) } =
        .next { t with cmds := is.map encode ++ t.cmds } := by
      rw [step_listed_encode, hcmds, exec_withCmds hi]
    exact (coreRun_succ (M := core) hstep is.length).trans (ih hrest)

/-- Settles O11: every trace runs to its end, so its parts compose; the machine's run on its listed words is the same
composition. -/
theorem tracesComposeInTickOrder : Obligations.TracesComposeInTickOrder := by
  refine ⟨fun is js s => ?_, fun is s rest => ?_⟩
  · obtain ⟨ds, t, his⟩ := runTrace_total is s
    obtain ⟨es, u, hjs⟩ := runTrace_total js t
    exact ⟨ds, t, es, u, his, hjs, runTrace_append his hjs⟩
  · obtain ⟨ds, u, h⟩ := runTrace_total is { s with cmds := rest }
    exact ⟨ds, u, h, coreRun_listed h⟩

end Sys2Proof.Machine
end

section
/-! The byte ROM against the table on names, and the pin levels against the low two bits of the command word
(`30_encoding.md` R52, R54, R56). -/

namespace Sys2Proof.Machine

/-! ## What unpacking a ROM word can answer -/

/-- Only the code of a state is read as that state. -/
theorem eq_encState_of_decState {c : StateCode} {S : DecoderState} (h : decState c = .ok S) : c = encState S := by
  unfold decState at h
  split_ifs at h <;> cases h <;> assumption

/-- Only the code of a direction is read as that direction. -/
theorem eq_dirCode_of_decDir {c : DirCode} {d : Direction} (h : decDir c = .ok d) : c = dirCode d := by
  unfold decDir at h
  split_ifs at h <;> cases h <;> assumption

/-- A ROM word whose spare bits are zero is `(dir << 4) | next` of its own two fields. -/
theorem eq_fields_of_romSpare {w : RomWord} (h : romSpare w = 0#8) :
    w = ((romDir w).setWidth 8 <<< 4) ||| (romNext w).setWidth 8 := by
  revert w
  decide

/-- Only the packing of a state and a direction is taken apart to that state and direction. -/
theorem eq_packWord_of_unpackWord {w : RomWord} {S : DecoderState} {d : Direction} (h : unpackWord w = .ok (S, d)) :
    w = packWord S d := by
  unfold unpackWord at h
  split at h
  next hspare =>
    split at h
    next hS hd =>
      cases h
      rw [packWord, ← eq_dirCode_of_decDir hd, ← eq_encState_of_decState hS]
      exact eq_fields_of_romSpare hspare
    all_goals cases h
  next => cases h

/-! ## The ROM -/

/-- A lookup that answers a state and a direction has read their packing at the entry's address. -/
theorem romRead_of_romLookup {S S' : DecoderState} {sym : Sym} {d : Direction} (h : romLookup S sym = .ok (S', d)) :
    romRead (romAddr S sym) = some (packWord S' d) := by
  unfold romLookup at h
  split at h
  next w hread => rw [hread, eq_packWord_of_unpackWord h]
  next => cases h

/-- Settles O25: the lookup reads the word at `enc(S) * 4 + sym` and answers the entry, and only the entry's packing is
taken apart to the entry. -/
theorem romHoldsTheTable : Obligations.RomHoldsTheTable := by
  intro S sym
  rw [← romAddr_toNat]
  exact romRead_of_romLookup (romLookup_eq_TT S sym)

/-! ## The symbol of a PROCESS word -/

/-- A word with `rst` low and `en` high is PROCESS of its two pin bits. -/
theorem decode_eq_process {c : CmdWord} (hrst : cmdRst c = false) (hen : cmdEn c = true) :
    decode c = .process (cmdA c) (cmdB c) := by
  simp [decode, hrst, hen]

/-- `sym = cmd[1:0]`: the two pin bits of a word make the symbol that stands in its low two bits. -/
theorem classify_cmdA_cmdB (c : CmdWord) : classify (cmdA c) (cmdB c) = c.extractLsb' 0 2 := by
  rw [← classify_bits (c.extractLsb' 0 2)]
  simp [cmdA, cmdB]

/-- Settles O4: the four symbols and their packing are evaluated; a step decodes a PROCESS word to its two pin bits, which
make its low two bits. -/
theorem pinsMakeTheSymbol : Obligations.PinsMakeTheSymbol := by
  refine ⟨by decide, by decide, fun s hrst hen => ⟨cmdA (presented s), cmdB (presented s), ?_, ?_⟩⟩
  · rw [step, decode_eq_process hrst hen]
  · exact classify_cmdA_cmdB (presented s)

end Sys2Proof.Machine
end

section
/-! The PROCESS operation: the fields of the ROM word it reads, the entries that show a direction, and what its result depends
on (`40_process.md` R70, R75, R77). -/

namespace Sys2Proof.Machine

/-! ## The fields of a packed word -/

/-- Bits `[2:0]` of a packed word are the code of its state. -/
theorem packWord_nextField (S : DecoderState) (d : Direction) : (packWord S d).extractLsb' 0 3 = encState S := by
  unfold packWord
  generalize encState S = c, dirCode d = e
  revert c e
  decide

/-- Bits `[5:4]` of a packed word are the code of its direction. -/
theorem packWord_dirField (S : DecoderState) (d : Direction) : (packWord S d).extractLsb' 4 2 = dirCode d := by
  unfold packWord
  generalize encState S = c, dirCode d = e
  revert c e
  decide

/-! ## The entries that show a direction -/

/-- Only the entry of `CwFinal` on 00 has the direction `Clockwise`. -/
theorem TT_clockwise_iff (S : DecoderState) (sym : Sym) : (TT S sym).2 = .clockwise ↔ S = .cwFinal ∧ sym = 0b00#2 := by
  revert sym
  cases S <;> decide

/-- Only the entry of `CcwFinal` on 00 has the direction `CounterClockwise`. -/
theorem TT_counterClockwise_iff (S : DecoderState) (sym : Sym) :
    (TT S sym).2 = .counterClockwise ↔ S = .ccwFinal ∧ sym = 0b00#2 := by
  revert sym
  cases S <;> decide

/-! ## The operation -/

/-- The PROCESS word is the operation bits `01` above the symbol of the pins. -/
theorem encode_process (a b : Bool) : encode (.process a b) = 0b01#2 ++ classify a b := by
  cases a <;> cases b <;> rfl

/-- Settles O14: the ROM holds the packing of the table's entry at the address, and PROCESS is the tick of that entry. -/
theorem processFollowsTheRom : Obligations.ProcessFollowsTheRom := by
  obtain ⟨-, hpack, -⟩ := pinsMakeTheSymbol
  intro a b s
  exact ⟨_, _, _, hpack a b, encode_process a b, romAddr_toNat .., romHoldsTheTable s.state (classify a b),
    packWord_nextField .., packWord_dirField .., rfl, exec_eq_tick (.process a b) s,
    TT_clockwise_iff .., TT_counterClockwise_iff ..⟩

/-- Two states with the same register value answer an operation with the same register and the same ports. -/
theorem exec_same_register (i : Instr) {s s' : State} (h : s.state = s'.state) :
    ∃ t t', exec i s = .next t ∧ exec i s' = .next t' ∧ t.state = t'.state ∧ t.dirO = t'.dirO ∧ t.stateO = t'.stateO := by
  refine ⟨_, _, exec_eq_tick i s, exec_eq_tick i s', ?_, ?_, ?_⟩
  · rw [tick_state, tick_state, h]
  · rw [tick_dirO, tick_dirO, h]
  · rw [tick_stateO, tick_stateO, h]

/-- Settles O15: PROCESS is one of the operations, and each answers from the register and its operands alone. -/
theorem processDependsOnStateAndPinsAlone : Obligations.ProcessDependsOnStateAndPinsAlone :=
  fun a b _ _ h => exec_same_register (.process a b) h

end Sys2Proof.Machine
end

section
/-! The transition table: which entries show a direction (`41_transition_table.md` R129), and what the rule of one entry says
(`41_transition_table.md` R101 to R128). -/

namespace Sys2Proof.Machine

open Safety

/-! ## The entries that show a direction -/

/-- Two directions have the same code exactly when they are the same. -/
@[simp] theorem dirCode_inj {d d' : Direction} : dirCode d = dirCode d' ↔ d = d' :=
  ⟨dirCode_injective, congrArg dirCode⟩

/-- A direction other than `None` is one of the two senses. -/
theorem Direction.eq_none_iff (d : Direction) : d = .none ↔ ¬ (d = .clockwise ∨ d = .counterClockwise) := by
  cases d <;> decide

/-- An entry has no direction exactly when it is not that of a final state on 00. -/
theorem TT_none_iff (S : DecoderState) (sym : Sym) :
    (TT S sym).2 = .none ↔ ¬ ((S = .cwFinal ∨ S = .ccwFinal) ∧ sym = 0b00#2) := by
  rw [Direction.eq_none_iff, TT_clockwise_iff, TT_counterClockwise_iff, or_and_right]

/-- An entry that has a direction leads to `Start`. -/
theorem TT_start_of_ne_none {S : DecoderState} {sym : Sym} (h : (TT S sym).2 ≠ .none) : (TT S sym).1 = .start := by
  rw [Ne, TT_none_iff, not_not] at h
  obtain ⟨rfl | rfl, rfl⟩ := h
  · rfl
  · rfl

/-- Settles O27: PROCESS is the tick of its table entry, the port tells directions apart, and the table has a direction
only in the two entries of the final states on 00. -/
theorem exactlyTwoEntriesEmit : Obligations.ExactlyTwoEntriesEmit := by
  intro a b s
  refine ⟨_, exec_eq_tick (.process a b) s, ?_⟩
  simp only [tick_dirO, tick_state, effect_process, dirCode_inj, ne_eq]
  exact ⟨TT_clockwise_iff .., TT_counterClockwise_iff .., TT_none_iff .., TT_start_of_ne_none⟩

/-! ## The rule of one entry -/

/-- For every state and symbol the entry rule holds of what the table and the class of the symbol answer: the ROM word at
`enc(S) * 4 + sym` is the packing of the table's entry, and PROCESS is the tick of that entry. -/
theorem entryIs_TT (S : DecoderState) (b a : Bool) :
    EntryIs S b a ((encState S).toNat * 4 + (classify a b).toNat)
      (packWord (TT S (classify a b)).1 (TT S (classify a b)).2) (TT S (classify a b)).1 (TT S (classify a b)).2
      (classOf S (classify a b)) where
  address := romAddr_toNat S (classify a b)
  byteRead := romHoldsTheTable S (classify a b)
  bytePacked := rfl
  entry := rfl
  symClass := rfl
  command := encode_process a b
  runs := by
    rintro s rfl
    exact exec_eq_tick (.process a b) s

/-- Settles O21: the literals of R101 to R104 are what the general entry rule evaluates to. -/
theorem startRowEntries : Obligations.StartRowEntries :=
  ⟨entryIs_TT .start false false, entryIs_TT .start false true, entryIs_TT .start true false, entryIs_TT .start true true⟩

/-- Settles O22: the literals of R105, R107, R108 (`CwBegin`), R109, R111 (`CwNext`), R113, R114 (`CwFinal`) are what the
general entry rule evaluates to. -/
theorem clockwiseDocumentEntries : Obligations.ClockwiseDocumentEntries :=
  ⟨entryIs_TT .cwBegin false false, entryIs_TT .cwBegin true false, entryIs_TT .cwBegin true true,
    entryIs_TT .cwNext false false, entryIs_TT .cwNext true false,
    entryIs_TT .cwFinal false false, entryIs_TT .cwFinal false true⟩

/-- Settles O23: the literals of R117, R118, R120 (`CcwBegin`), R121, R122 (`CcwNext`), R125, R127 (`CcwFinal`) are what the
general entry rule evaluates to. -/
theorem counterClockwiseDocumentEntries : Obligations.CounterClockwiseDocumentEntries :=
  ⟨entryIs_TT .ccwBegin false false, entryIs_TT .ccwBegin false true, entryIs_TT .ccwBegin true true,
    entryIs_TT .ccwNext false false, entryIs_TT .ccwNext false true,
    entryIs_TT .ccwFinal false false, entryIs_TT .ccwFinal true false⟩

end Sys2Proof.Machine
end

section
/-! RESET, and traces after it: only the register of a state decides what a trace answers (`42_reset_inspect.md` R141). -/

namespace Sys2Proof.Machine

/-- Two states with the same register value answer a trace with the same directions and the same final register. -/
theorem runTrace_same_register (is : List Instr) {s s' : State} (h : s.state = s'.state) :
    ∃ ds u u', runTrace is s = .next (ds, u) ∧ runTrace is s' = .next (ds, u') ∧ u.state = u'.state := by
  induction is generalizing s s' with
  | nil => exact ⟨[], s, s', rfl, rfl, h⟩
  | cons i is ih =>
    obtain ⟨t, t', hi, hi', hstate, hdir, -⟩ := exec_same_register i h
    obtain ⟨ds, u, u', hs, hs', hfinal⟩ := ih hstate
    exact ⟨t.dirO :: ds, u, u', runTrace_cons hi hs, hdir ▸ runTrace_cons hi' hs', hfinal⟩

/-- Settles O17: the tick of RESET leaves the register at its initial value, which decides what INSPECT shows and what
every further trace answers. -/
theorem resetLeavesAFreshDecoder : Obligations.ResetLeavesAFreshDecoder := by
  intro s
  have hstart : (tick .none .start s).state = State.reset.state := tick_state ..
  obtain ⟨v, hinspect, -, hshown⟩ := exec_register .inspect (tick .none .start s)
  exact ⟨tick .none .start s, v, exec_eq_tick .reset s, tick_cmds .., tick_freeDrawn .., hstart, hinspect,
    hstart ▸ hshown, fun is => runTrace_same_register is hstart⟩

end Sys2Proof.Machine
end

section
/-! No exceptions: every operation and every step is a tick, and no fault cause exists (`60_exceptions.md` R150). -/

namespace Sys2Proof.Machine

/-- The set of exception causes is empty (`60_exceptions.md` R150). -/
theorem Fault.not_raised (f : Fault) : False := by
  cases f

/-- Settles O10: a step and an operation each answer the tick of their effect on names, also PROCESS, whose lookup finds the
table's entry for every state and symbol; the type of faults has no constructor. -/
theorem everyTickAnswersNext : Obligations.EveryTickAnswersNext :=
  ⟨fun s => ⟨_, step_eq_tick s⟩, fun i s => ⟨_, exec_eq_tick i s⟩, Fault.not_raised⟩

end Sys2Proof.Machine
end

section
/-! Command words against commands: the decoder reads the used bits of a word and nothing else (`30_encoding.md` R51, R57, R60). -/

namespace Sys2Proof.Machine

/-- A word decodes to a command exactly when its used bits are those of the command's canonical word. -/
theorem decode_eq_iff (c : CmdWord) (i : Instr) : decode c = i ↔ c &&& usedBits i = encode i := by
  cases i with
  | inspect => revert c; decide
  | process a b => revert a b c; decide
  | reset => revert c; decide

/-- The number of a command word puts that word on the wires. -/
@[simp] theorem onWires_toNat (c : CmdWord) : onWires c.toNat = c := by
  rw [onWires, BitVec.ofNat_toNat, BitVec.setWidth_eq]

/-- A step on a placed word performs the command it decodes to, and the listed words of later ticks stay. -/
theorem step_presentWord (s : State) (c : CmdWord) :
    step (presentWord s c) = exec (decode c) { s with cmds := s.cmds.drop 1 } := by
  rw [step, presented_presentWord, nextInput_presentWord]

/-- Settles O3: the decoder reads a word's used bits, and a step on a placed word performs what it decodes to. -/
theorem wordsAndCommandsAgree : Obligations.WordsAndCommandsAgree := by
  refine ⟨fun i _ => decode_encode i, decode_eq_iff, fun i s nbits => ?_⟩
  rw [State.withFetchWord, onWires_toNat, step_presentWord, decode_encode]

end Sys2Proof.Machine
end

section
/-! The recorded ports: what any operation shows is legal, whatever the ports showed before (`30_encoding.md` R55, R57;
`41_transition_table.md` R129). -/

namespace Sys2Proof.Machine

open Safety

/-! ## Codes that never occur -/

theorem dirCode_ne_three (d : Direction) : dirCode d ≠ 3#2 := by cases d <;> decide

theorem encState_ne_seven (S : DecoderState) : encState S ≠ 7#3 := by cases S <;> decide

/-! ## The direction of an operation -/

/-- Only PROCESS has a direction. -/
theorem exists_process_of_effect_ne_none {S : DecoderState} {i : Instr} (h : (effect S i).2 ≠ .none) :
    ∃ a b, i = .process a b := by
  cases i with
  | inspect => exact absurd rfl h
  | process a b => exact ⟨a, b, rfl⟩
  | reset => exact absurd rfl h

theorem eq_cwFinal_of_effect_clockwise {S : DecoderState} {i : Instr} (h : (effect S i).2 = .clockwise) :
    S = .cwFinal := by
  obtain ⟨a, b, rfl⟩ := exists_process_of_effect_ne_none (by rw [h]; decide)
  exact ((TT_clockwise_iff S _).mp h).1

theorem eq_ccwFinal_of_effect_counterClockwise {S : DecoderState} {i : Instr}
    (h : (effect S i).2 = .counterClockwise) : S = .ccwFinal := by
  obtain ⟨a, b, rfl⟩ := exists_process_of_effect_ne_none (by rw [h]; decide)
  exact ((TT_counterClockwise_iff S _).mp h).1

/-- An operation that has a direction leads to `Start`. -/
theorem effect_start_of_ne_none {S : DecoderState} {i : Instr} (h : (effect S i).2 ≠ .none) :
    (effect S i).1 = .start := by
  obtain ⟨a, b, rfl⟩ := exists_process_of_effect_ne_none h
  exact TT_start_of_ne_none h

/-! ## The ports after a tick -/

/-- Every operation shows legal ports, from every state: what the ports showed before is overwritten. -/
theorem exec_portsLegal {i : Instr} {s t : State} (h : exec i s = .next t) : PortsLegal t := by
  obtain rfl := exec_next_iff.mp h
  constructor <;> simp only [tick_state, tick_dirO, tick_stateO, dirCode_inj, isEvent_dirCode, decide_eq_true_eq]
  case dirLegal => exact dirCode_ne_three _
  case stateLegal => exact encState_ne_seven _
  case eventInStart => exact effect_start_of_ne_none
  case clockwiseFromFinal => exact fun hd => congrArg encState (eq_cwFinal_of_effect_clockwise hd)
  case counterClockwiseFromFinal => exact fun hd => congrArg encState (eq_ccwFinal_of_effect_counterClockwise hd)

/-- Settles O43: a step is an operation, and every operation shows legal ports. -/
theorem portsStayLegal : Obligations.PortsStayLegal :=
  fun _ _ _ hstep => exec_portsLegal hstep

/-- Settles O45: the ports recorded at reset are codes of no direction and of `Start`, and the empty history is the one
word of `Start`. -/
theorem invariantsHoldAtReset : Obligations.InvariantsHoldAtReset := by
  have hfits : ∀ s : State, s.state = .start → HistoryFits [] s := by
    intro s hs
    rw [HistoryFits, hs]
    exact Language.nil_mem_one
  refine ⟨?_, hfits State.reset rfl, hfits⟩
  constructor <;> decide

end Sys2Proof.Machine
end

section
/-! Command words: the rows they hit, the bits they ignore, and the commands of `rst` and `en` alone (`30_encoding.md` R51, R53,
R57, R62). -/

namespace Sys2Proof.Machine

/-- Settles O12: words that agree on the used bits of one's command decode to that command, and a step on a placed word
depends on what it decodes to. -/
theorem unusedCommandBitsHaveNoEffect : Obligations.UnusedCommandBitsHaveNoEffect := by
  intro s c c' h
  have hdecode : decode c' = decode c := by
    rw [decode_eq_iff, ← h]
    exact (decode_eq_iff c (decode c)).mp rfl
  rw [step_presentWord, step_presentWord, hdecode]

/-! ## The selecting bits -/

theorem decode_eq_reset {c : CmdWord} (hrst : cmdRst c = true) : decode c = .reset := by
  simp [decode, hrst]

theorem decode_eq_inspect {c : CmdWord} (hrst : cmdRst c = false) (hen : cmdEn c = false) : decode c = .inspect := by
  simp [decode, hrst, hen]

/-- Settles O1: each written word is evaluated. -/
theorem writtenWordsDecode : Obligations.WrittenWordsDecode := by
  unfold Obligations.WrittenWordsDecode
  decide

/-- Settles O16: RESET is the tick to `Start` without a direction, so its result does not depend on the register. -/
theorem resetForcesStart : Obligations.ResetForcesStart := by
  refine ⟨exec_eq_tick .reset, fun s t u ht hu => ?_, fun c => decode_eq_reset⟩
  obtain rfl := exec_next_iff.mp ht
  obtain rfl := exec_next_iff.mp hu
  rfl

/-- Settles O18: INSPECT is the tick that keeps the register and has no direction. -/
theorem inspectShowsAndKeeps : Obligations.InspectShowsAndKeeps :=
  ⟨exec_eq_tick .inspect, fun _ => decode_eq_inspect⟩

/-- Settles O13: a word with `rst = 1` decodes to RESET, and moving the input on leaves the register to be shown. -/
theorem resetWinsOverTheSample : Obligations.ResetWinsOverTheSample := by
  intro s hrst
  rw [step, decode_eq_reset hrst, ← nextInput_state s]
  exact exec_eq_tick .reset (nextInput s)

/-- Settles O8: presenting and moving on follow the list of words, else the free source. -/
theorem stepPerformsTheDecodedCommand : Obligations.StepPerformsTheDecodedCommand := by
  refine ⟨?_, fun s c cs h => ⟨presented_cons s c cs h, nextInput_cons s c cs h⟩,
    fun s h => ⟨presented_nil s h, nextInput_nil s h⟩, fun s _ w => presented_presentWord s (onWires w)⟩
  rintro s i rfl
  rfl

/-! ## The opcode map -/

/-- A row reads only bits that the canonical word of the command keeps. -/
theorem hits_encode_decode {r : OpRow} (hr : r ∈ opRows) (c : CmdWord) : r.hits (encode (decode c)) = r.hits c := by
  revert r c
  decide

theorem ownRow (i : Instr) : Laws.OwnRow.Statement i := by
  cases i with
  | inspect => exact Laws.OwnRow.inspect
  | process a b => exact Laws.OwnRow.process a b
  | reset => exact Laws.OwnRow.reset

/-- Settles O2: a word hits the rows that the canonical word of its command hits, which is the command's own row. -/
theorem everyWordHitsOneRow : Obligations.EveryWordHitsOneRow := by
  intro nbits w
  refine ⟨decode (onWires w), rfl, ?_⟩
  rw [← ownRow (decode (onWires w)), List.filter_congr fun r hr => (hits_encode_decode hr (onWires w)).symm]

end Sys2Proof.Machine
end

section
/-! Repetition in a Kleene algebra: one more symbol after a history of the shape `a+ b+ (c+ b+)*` or `a+ b+ c+ (b+ c+)*`
(the shapes of `41_transition_table.md` R136). -/

namespace Sys2Proof.Safety

open Computability

variable {K : Type*} [KleeneAlgebra K] (a b c : K)

/-- `x+`. -/
def plus (x : K) : K := x * x∗

/-- `b+ (c+ b+)*`: an alternation that ends in `b`. -/
def endsInFirst : K := plus b * (plus c * plus b)∗

/-- `b+ c+ (b+ c+)*`: an alternation that ends in `c`. -/
def endsInSecond : K := plus b * (plus c * (plus b * plus c)∗)

theorem le_plus : a ≤ plus a := le_mul_of_one_le_right' one_le_kstar

theorem plus_mul_self_le : plus a * a ≤ plus a := by
  rw [plus, mul_assoc]
  exact mul_le_mul_right kstar_mul_le_kstar a

/-- A bound on the last two factors of a product. -/
theorem mul_mul_le_of_mul_le {a b c d : K} (h : b * c ≤ d) : a * b * c ≤ a * d :=
  (mul_assoc a b c).trans_le (mul_le_mul_right h a)

/-- The star slides over a product. -/
theorem mul_kstar_slide : a * (b * a)∗ = (a * b)∗ * a := by
  apply le_antisymm
  · refine mul_kstar_le (le_mul_of_one_le_left' one_le_kstar) ?_
    calc (a * b)∗ * a * (b * a) = (a * b)∗ * (a * b) * a := by simp only [mul_assoc]
      _ ≤ (a * b)∗ * a := by grw [kstar_mul_le_kstar]
  · refine kstar_mul_le (le_mul_of_one_le_right' one_le_kstar) ?_
    calc a * b * (a * (b * a)∗) = a * (b * a * (b * a)∗) := by simp only [mul_assoc]
      _ ≤ a * (b * a)∗ := by grw [mul_kstar_le_kstar]

theorem endsInFirst_eq : endsInFirst b c = (plus b * plus c)∗ * plus b := mul_kstar_slide (plus b) (plus c)

theorem endsInSecond_eq : endsInSecond b c = (plus b * plus c)∗ * plus b * plus c := by
  have hcomm := mul_kstar_slide (plus b * plus c) 1
  simp only [one_mul, mul_one, mul_assoc] at hcomm
  simpa only [endsInSecond, mul_assoc] using hcomm

theorem le_endsInFirst : b ≤ endsInFirst b c :=
  (le_plus b).trans (le_mul_of_one_le_right' one_le_kstar)

theorem endsInFirst_mul_first_le : endsInFirst b c * b ≤ endsInFirst b c := by
  rw [endsInFirst_eq, mul_assoc]
  grw [plus_mul_self_le]

theorem endsInFirst_mul_second_le : endsInFirst b c * c ≤ endsInSecond b c := by
  rw [endsInFirst_eq, endsInSecond_eq]
  grw [le_plus c]

theorem endsInSecond_mul_second_le : endsInSecond b c * c ≤ endsInSecond b c := by
  rw [endsInSecond_eq, mul_assoc]
  grw [plus_mul_self_le]

theorem endsInSecond_mul_first_le : endsInSecond b c * b ≤ endsInFirst b c := by
  rw [endsInSecond_eq, endsInFirst_eq]
  calc (plus b * plus c)∗ * plus b * plus c * b = (plus b * plus c)∗ * (plus b * plus c) * b := by simp only [mul_assoc]
    _ ≤ (plus b * plus c)∗ * plus b := by grw [kstar_mul_le_kstar, le_plus b]

end Sys2Proof.Safety
end

section
/-! The history since `Start` and the languages of the seven register values (`41_transition_table.md` R136). -/

namespace Sys2Proof.Safety

open Sys2Proof Sys2Proof.Machine Computability

/-- The histories that `progress` gives a register value, as a language. -/
def histories (S : DecoderState) : Language Sym := (progress S).matches'

/-! ## Every history the decoder makes is one of its register value -/

/-- One more sample that does not lead to `Start` continues a history of the old register value to one of the new: the
advances, the holds, and the back-steps from the final states. (By the definition of `progress` the histories of a begin state
are `plus` of its symbol; those of a next and of a final state go on from there with `endsInFirst` and `endsInSecond`.) -/
theorem histories_mul_symbol_le {S : DecoderState} {sym : Sym} (h : (TT S sym).1 ≠ .start) :
    histories S * {[sym]} ≤ histories (TT S sym).1 := by
  cases S <;> cases sym using Sym.cases_written
  case start.h01 | start.h10 => exact (one_mul _).trans_le (le_plus _)
  case cwBegin.h11 | ccwBegin.h11 => exact mul_le_mul_right (le_endsInFirst _ _) _
  case cwNext.h10 | ccwNext.h01 => exact mul_mul_le_of_mul_le (endsInFirst_mul_second_le _ _)
  case cwBegin.h01 | ccwBegin.h10 => exact plus_mul_self_le _
  case cwNext.h11 | ccwNext.h11 => exact mul_mul_le_of_mul_le (endsInFirst_mul_first_le _ _)
  case cwFinal.h10 | ccwFinal.h01 => exact mul_mul_le_of_mul_le (endsInSecond_mul_second_le _ _)
  case cwFinal.h11 | ccwFinal.h11 => exact mul_mul_le_of_mul_le (endsInSecond_mul_first_le _ _)
  all_goals exact absurd rfl h

/-- A command continues a history of the old register value to one of the new. -/
theorem sinceStart_mem_histories {h : List Sym} {S : DecoderState} (hfit : h ∈ histories S) (i : Instr) :
    sinceStart h i (effect S i).1 ∈ histories (effect S i).1 := by
  cases i with
  | inspect => exact hfit
  | reset => exact Language.nil_mem_one
  | process a b =>
    rw [effect_process, sinceStart]
    split
    next hstart => rw [hstart]; exact Language.nil_mem_one
    next hprogress => exact histories_mul_symbol_le hprogress (Language.append_mem_mul hfit rfl)

/-- Settles O44: a step loads the next state of the presented command's effect, and that command continues the history. -/
theorem historyKeepsFitting : Obligations.HistoryKeepsFitting := by
  intro h s t hfit hstep
  rw [HistoryFits, step_next_state hstep]
  exact sinceStart_mem_histories hfit _

/-! ## A history of a register value leads the decoder there -/

theorem runTable_append_state (T : Table) (S : DecoderState) (xs ys : List Sym) :
    (runTable T S (xs ++ ys)).2 = (runTable T (runTable T S xs).2 ys).2 := by
  induction xs generalizing S with
  | nil => rfl
  | cons x xs ih => exact ih (T S x).1

/-- Every word of a language leads the table's register from `S` to `S'`. -/
def LeadsTo (l : Language Sym) (S S' : DecoderState) : Prop := ∀ w ∈ l, (runTable TT S w).2 = S'

section
variable {l m : Language Sym} {x y : Sym} {S S' S'' : DecoderState}

theorem leadsTo_symbol (h : (TT S x).1 = S') : LeadsTo {[x]} S S' := by
  rintro w rfl
  exact h

theorem LeadsTo.mul (h : LeadsTo l S S') (h' : LeadsTo m S' S'') : LeadsTo (l * m) S S'' := by
  rintro w ⟨u, hu, v, hv, rfl⟩
  rw [runTable_append_state, h u hu, h' v hv]

theorem LeadsTo.kstar (h : LeadsTo l S S) : LeadsTo l∗ S S := by
  rintro w ⟨us, rfl, hus⟩
  induction us with
  | nil => rfl
  | cons u us ih =>
    rw [List.flatten_cons, runTable_append_state, h u (hus u List.mem_cons_self)]
    exact ih fun v hv => hus v (List.mem_cons_of_mem u hv)

theorem leadsTo_oneOrMore (henter : (TT S x).1 = S') (hhold : (TT S' x).1 = S') :
    LeadsTo (oneOrMore x).matches' S S' :=
  (leadsTo_symbol henter).mul (leadsTo_symbol hhold).kstar

theorem leadsTo_pairs (hx : (TT S x).1 = S') (hxx : (TT S' x).1 = S') (hy : (TT S' y).1 = S) (hyy : (TT S y).1 = S) :
    LeadsTo (pairs x y).matches' S S :=
  ((leadsTo_oneOrMore hx hxx).mul (leadsTo_oneOrMore hy hyy)).kstar

end

/-- The histories of a register value lead from `Start` to it. -/
theorem histories_leadsTo (S : DecoderState) : LeadsTo (histories S) .start S := by
  cases S with
  | start => rintro w rfl; rfl
  | cwBegin | ccwBegin => exact leadsTo_oneOrMore rfl rfl
  | cwNext | ccwNext =>
    exact (leadsTo_oneOrMore rfl rfl).mul <| (leadsTo_oneOrMore rfl rfl).mul <| leadsTo_pairs rfl rfl rfl rfl
  | cwFinal | ccwFinal =>
    exact (leadsTo_oneOrMore rfl rfl).mul <| (leadsTo_oneOrMore rfl rfl).mul <|
      (leadsTo_oneOrMore rfl rfl).mul <| leadsTo_pairs rfl rfl rfl rfl

/-- A history belongs to one register value only. -/
theorem histories_unique {h : List Sym} {S S' : DecoderState} (hS : h ∈ histories S) (hS' : h ∈ histories S') : S = S' :=
  (histories_leadsTo S h hS).symm.trans (histories_leadsTo S' h hS')

/-! ## The words that close a cycle -/

theorem clockwiseWords_eq : clockwiseWords.matches' = histories .cwFinal * {[0b00#2]} := by
  simp [clockwiseWords, histories, progress, mul_assoc]

theorem counterClockwiseWords_eq : counterClockwiseWords.matches' = histories .ccwFinal * {[0b00#2]} := by
  simp [counterClockwiseWords, histories, progress, mul_assoc]

theorem append_mem_mul_symbol_iff {l : Language Sym} {h : List Sym} {x y : Sym} :
    h ++ [x] ∈ l * {[y]} ↔ h ∈ l ∧ x = y := by
  constructor
  · rintro ⟨u, hu, v, rfl, heq⟩
    obtain ⟨rfl, hxy⟩ := List.append_inj' heq rfl
    exact ⟨hu, (List.singleton_inj.mp hxy).symm⟩
  · rintro ⟨hl, rfl⟩
    exact Language.append_mem_mul hl rfl

/-- A history of `S` and one more symbol close a cycle of the final state `F` exactly when `S` is `F` and the symbol is
the closing one. -/
theorem append_mem_closing_iff {h : List Sym} {S : DecoderState} (hfit : h ∈ histories S) (F : DecoderState) (x y : Sym) :
    h ++ [x] ∈ histories F * {[y]} ↔ S = F ∧ x = y := by
  rw [append_mem_mul_symbol_iff, and_congr_left_iff]
  exact fun _ => ⟨histories_unique hfit, fun hSF => hSF ▸ hfit⟩

/-- Settles O34: a direction is shown from its final state on 00 only, and the fitting histories of a final state are
those of no other. -/
theorem eventsCloseAWordOfTheCycle : Obligations.EventsCloseAWordOfTheCycle := by
  intro h a b s hfit
  obtain ⟨t, hexec, hcw, hccw, -⟩ := exactlyTwoEntriesEmit a b s
  refine ⟨t, hexec, hcw.trans ?_, hccw.trans ?_⟩
  · rw [clockwiseWords_eq, append_mem_closing_iff hfit]
  · rw [counterClockwiseWords_eq, append_mem_closing_iff hfit]

end Sys2Proof.Safety
end

section
/-! ROM words and codes: which codes name a value, which words have the format, and where the image has words
(`10_state.md` R12, `30_encoding.md` R54, R55, `20_memory.md` R33, R37). -/

namespace Sys2Proof.Machine

/-! ## Codes that name a value -/

theorem stateCodeOk_eq_isOk (c : StateCode) : stateCodeOk c = (decState c).isOk := by
  revert c
  decide

theorem dirCodeOk_eq_isOk (c : DirCode) : dirCodeOk c = (decDir c).isOk := by
  revert c
  decide

theorem isOk_iff {ε α : Type} (x : Except ε α) : x.isOk = true ↔ ∃ a, x = .ok a := by
  cases x <;> simp [Except.isOk, Except.toBool]

theorem stateCodeOk_iff (c : StateCode) : stateCodeOk c = true ↔ ∃ S, c = encState S := by
  rw [stateCodeOk_eq_isOk, isOk_iff]
  exact exists_congr fun S => ⟨eq_encState_of_decState, fun h => h ▸ decState_encState S⟩

theorem dirCodeOk_iff (c : DirCode) : dirCodeOk c = true ↔ ∃ d, c = dirCode d := by
  rw [dirCodeOk_eq_isOk, isOk_iff]
  exact exists_congr fun d => ⟨eq_dirCode_of_decDir, fun h => h ▸ decDir_dirCode d⟩

/-- Settles O6: code 7 is refused by name, and every other code is read as the state it is the code of. -/
theorem unusedStartCodeIsRefused : Obligations.UnusedStartCodeIsRefused := by
  refine ⟨fun s => rfl, fun c s hc => ?_⟩
  obtain ⟨S, rfl⟩ := (stateCodeOk_iff c).mp (bne_iff_ne.mpr hc)
  exact ⟨S, rfl, by rw [startAt, decState_encState]⟩

/-! ## The word format -/

theorem romNext_eq_field (w : RomWord) : romNext w = w.extractLsb' 0 3 := by
  revert w
  decide

theorem romDir_eq_field (w : RomWord) : romDir w = w.extractLsb' 4 2 := by
  revert w
  decide

/-- The spare bits of a packed word are zero. -/
theorem romSpare_packWord (S : DecoderState) (d : Direction) : romSpare (packWord S d) = 0#8 := by
  unfold packWord
  generalize encState S = c, dirCode d = e
  revert c e
  decide

theorem unpackWord_packWord (S : DecoderState) (d : Direction) : unpackWord (packWord S d) = .ok (S, d) := by
  simp [unpackWord, romSpare_packWord, romNext_eq_field, romDir_eq_field, packWord_nextField, packWord_dirField]

theorem romWordOk_packWord (S : DecoderState) (d : Direction) : romWordOk (packWord S d) = true := by
  have hbits : romBitsOk (packWord S d) = true := beq_iff_eq.mpr (romSpare_packWord S d)
  rw [romWordOk, hbits, packWord_nextField, packWord_dirField, (stateCodeOk_iff _).mpr ⟨S, rfl⟩,
    (dirCodeOk_iff _).mpr ⟨d, rfl⟩]
  rfl

/-- A word of the format is the packing of what its two fields name. -/
theorem exists_eq_packWord_of_romWordOk {w : RomWord} (h : romWordOk w = true) : ∃ S d, w = packWord S d := by
  simp only [romWordOk, Bool.and_eq_true] at h
  obtain ⟨⟨hbits, hdir⟩, hnext⟩ := h
  obtain ⟨S, hS⟩ := (stateCodeOk_iff _).mp hnext
  obtain ⟨d, hd⟩ := (dirCodeOk_iff _).mp hdir
  refine ⟨S, d, ?_⟩
  rw [packWord, ← hS, ← hd, ← romNext_eq_field, ← romDir_eq_field]
  exact eq_fields_of_romSpare (beq_iff_eq.mp hbits)

/-- Settles O5: unpacking inverts packing both ways, and a word of the format is the packing of what its fields name. -/
theorem romWordFormat : Obligations.RomWordFormat := by
  refine ⟨fun w S d => ⟨eq_packWord_of_unpackWord, ?_⟩, fun w => ⟨exists_eq_packWord_of_romWordOk, ?_⟩⟩
  · rintro rfl
    exact unpackWord_packWord S d
  · rintro ⟨S, d, rfl⟩
    exact romWordOk_packWord S d

/-! ## Where the image has words -/

/-- An address that no listed pair has holds no word. -/
theorem Memory.read_eq_none {m : Memory} {a : Nat} (h : ∀ cell ∈ m, cell.1 ≠ a) : Memory.read m a = none := by
  induction m with
  | nil => rfl
  | cons cell m ih =>
    rw [Memory.read, if_neg (h cell List.mem_cons_self)]
    exact ih fun c hc => h c (List.mem_cons_of_mem cell hc)

theorem rom_addresses_lt : ∀ cell ∈ rom, cell.1 < 28 := by decide

theorem encState_toNat_lt (S : DecoderState) : (encState S).toNat < 7 := by cases S <;> decide

/-- Every address below 28 is formed by a state and a symbol. -/
theorem exists_address_eq {n : Nat} (h : n < 28) : ∃ (S : DecoderState) (sym : Sym), (encState S).toNat * 4 + sym.toNat = n := by
  have hcode : (BitVec.ofNat 3 (n / 4)).toNat = n / 4 := by rw [BitVec.toNat_ofNat]; omega
  have hsym : (BitVec.ofNat 2 (n % 4)).toNat = n % 4 := by rw [BitVec.toNat_ofNat]; omega
  have hne : BitVec.ofNat 3 (n / 4) ≠ 7#3 := by
    intro heq
    have : n / 4 = 7 := hcode ▸ congrArg BitVec.toNat heq
    omega
  obtain ⟨S, hS⟩ := (stateCodeOk_iff _).mp (bne_iff_ne.mpr hne)
  refine ⟨S, BitVec.ofNat 2 (n % 4), ?_⟩
  rw [← hS, hcode, hsym]
  omega

/-- Settles O26: the image's addresses are those of the 28 table entries, and each holds its entry's packing. -/
theorem romIsPopulatedTo27 : Obligations.RomIsPopulatedTo27 := by
  refine ⟨rom_wf, rfl, rfl, fun n hn => ?_, fun n hn => ?_, fun S sym => ?_⟩
  · exact Memory.read_eq_none fun cell hcell => by have := rom_addresses_lt cell hcell; omega
  · obtain ⟨S, sym, rfl⟩ := exists_address_eq hn
    exact ⟨_, romHoldsTheTable S sym, romWordOk_packWord _ _⟩
  · have hS := encState_toNat_lt S
    have hsym := sym.isLt
    rw [romAddrOk, romAddr_toNat, decide_eq_true_eq]
    omega

end Sys2Proof.Machine
end

section
/-! The table as a whole: the decided entries, the mirror and the symbol classes (`41_transition_table.md` R130, R131). -/

namespace Sys2Proof.Machine

open Safety

/-- Settles O24: the literals of R106, R110, R112, R115, R116, R119, R123, R124, R126 and R128 are what the general entry rule
evaluates to. -/
theorem decidedEntries : Obligations.DecidedEntries :=
  ⟨entryIs_TT .cwBegin false true, entryIs_TT .cwNext true true, entryIs_TT .cwFinal true false,
    entryIs_TT .ccwBegin true false, entryIs_TT .ccwNext true true, entryIs_TT .ccwFinal false true,
    entryIs_TT .cwNext false true, entryIs_TT .ccwNext true false,
    entryIs_TT .cwFinal true true, entryIs_TT .ccwFinal true true⟩

/-- The mirrored state on the exchanged pins has the mirrored entry. -/
theorem TT_mirror (S : DecoderState) (a b : Bool) :
    TT (mirrorState S) (classify b a) = (mirrorState (TT S (classify a b)).1, mirrorDir (TT S (classify a b)).2) := by
  revert a b
  cases S <;> decide

/-- Settles O28: both runs are the ticks of their table entries, and these mirror each other. -/
theorem swappedPinsSwapTheDirection : Obligations.SwappedPinsSwapTheDirection := by
  intro a b s
  refine ⟨_, _, (TT s.state (classify a b)).2, exec_eq_tick .., exec_eq_tick .., ?_, tick_dirO .., ?_⟩
  · simp only [tick_state, effect_process, TT_mirror]
  · simp only [tick_dirO, effect_process, TT_mirror]

/-- The class of the symbol decides the entry. -/
theorem TT_eq_byClass (S : DecoderState) (sym : Sym) : TT S sym = byClass S (classOf S sym) := by
  revert sym
  cases S <;> decide

/-- Settles O29: PROCESS is the tick of its table entry, and the class of the symbol decides that entry. -/
theorem symbolClassDecidesTheEntry : Obligations.SymbolClassDecidesTheEntry := by
  intro a b s
  rw [← TT_eq_byClass]
  exact exec_eq_tick (.process a b) s

end Sys2Proof.Machine
end

section
/-! A trace of the machine is the trace of its commands over the block's table (`00_scope.md` R8, `20_memory.md` R39). -/

namespace Sys2Proof.Safety

open Sys2Proof Sys2Proof.Machine

/-- The effect of an operation is its command over the block's table. -/
theorem tableCommand_TT (S : DecoderState) (i : Instr) : tableCommand TT S i = effect S i := by
  cases i with
  | inspect => rfl
  | process a b => rfl
  | reset => rfl

/-- A trace shows the directions, and ends in the register value, of its commands over the block's table. -/
theorem runTrace_eq_runCommands (is : List Instr) (s : State) :
    ∃ u, runTrace is s = .next ((runCommands TT s.state is).1.map dirCode, u) ∧ u.state = (runCommands TT s.state is).2 := by
  induction is generalizing s with
  | nil => exact ⟨s, rfl, rfl⟩
  | cons i is ih =>
    obtain ⟨u, hrest, hfinal⟩ := ih (tick (effect s.state i).2 (effect s.state i).1 s)
    rw [tick_state] at hrest hfinal
    rw [runCommands_cons, tableCommand_TT]
    exact ⟨u, runTrace_cons (exec_eq_tick i s) hrest, hfinal⟩

theorem runCommands_append (T : Table) (S : DecoderState) (is js : List Instr) :
    runCommands T S (is ++ js) =
      ((runCommands T S is).1 ++ (runCommands T (runCommands T S is).2 js).1,
        (runCommands T (runCommands T S is).2 js).2) := by
  induction is generalizing S with
  | nil => rfl
  | cons i is ih => simp [ih]

/-! ## The rest symbol -/

theorem TT_rest_state (S : DecoderState) : (TT S 0b00#2).1 = .start := by cases S <;> rfl

theorem TT_rest_direction_iff (S : DecoderState) : (TT S 0b00#2).2 ≠ .none ↔ isFinal S = true := by cases S <;> decide

/-- Settles O30: every entry of 00 leads to `Start`, and those of the final states are the ones with a direction. -/
theorem restSymbolSynchronises : Obligations.RestSymbolSynchronises := by
  refine ⟨fun s => ?_, fun is s => ?_⟩
  · refine ⟨_, _, exec_eq_tick (.process false false) s, exec_eq_tick .reset s, TT_rest_state s.state, rfl, ?_, rfl⟩
    rw [tick_dirO, isEvent_dirCode, decide_eq_true_eq]
    exact TT_rest_direction_iff s.state
  · obtain ⟨u, hrun, hfinal⟩ := runTrace_eq_runCommands (is ++ [.process false false]) s
    rw [runCommands_append] at hfinal
    exact ⟨_, u, hrun, hfinal.trans (TT_rest_state _)⟩

/-! ## Reachability -/

/-- Samples that lead from `Start` to a register value. -/
def samplesTo : DecoderState → List Instr
  | .start => []
  | .cwBegin => [sample false true]
  | .cwNext => [sample false true, sample true true]
  | .cwFinal => [sample false true, sample true true, sample true false]
  | .ccwBegin => [sample true false]
  | .ccwNext => [sample true false, sample true true]
  | .ccwFinal => [sample true false, sample true true, sample false true]

/-- Settles O31: the listed samples of each register value lead to it over the block's table. -/
theorem everyStateIsReachable : Obligations.EveryStateIsReachable := by
  intro S
  obtain ⟨u, hrun, hfinal⟩ := runTrace_eq_runCommands (samplesTo S) State.reset
  refine ⟨samplesTo S, _, u, ?_, hrun, hfinal.trans ?_⟩
  · cases S <;> rfl
  · cases S <;> rfl

/-! ## Idle ticks -/

/-- Over the block's table the commands without the idle ones end in the same state, with the results of the others. -/
theorem runCommands_withoutIdle (S : DecoderState) (is : List Instr) :
    busyResults is ((runCommands TT S is).1.map dirCode) = (runCommands TT S (withoutIdle is)).1.map dirCode ∧
      (runCommands TT S is).2 = (runCommands TT S (withoutIdle is)).2 := by
  induction is generalizing S with
  | nil => exact ⟨rfl, rfl⟩
  | cons i is ih =>
    cases i with
    | inspect => exact ih S
    | process a b => exact ⟨congrArg _ (ih _).1, (ih _).2⟩
    | reset => exact ⟨congrArg _ (ih _).1, (ih _).2⟩

/-- Settles O39: both traces are runs of their commands over the block's table, where INSPECT keeps the state. -/
theorem idleTicksDoNotAdvance : Obligations.IdleTicksDoNotAdvance := by
  intro is s
  obtain ⟨u, hrun, hfinal⟩ := runTrace_eq_runCommands is s
  obtain ⟨v, hbusy, hbusyFinal⟩ := runTrace_eq_runCommands (withoutIdle is) s
  obtain ⟨hresults, hsame⟩ := runCommands_withoutIdle s.state is
  exact ⟨_, u, _, v, hrun, hbusy, hfinal.trans (hsame.trans hbusyFinal.symm), hresults⟩

/-! ## Clean cycles -/

/-- Samples of a symbol that the state holds keep the state and show None. -/
theorem runCommands_replicate_hold {S : DecoderState} {a b : Bool} (hhold : TT S (classify a b) = (S, .none)) (n : Nat) :
    runCommands TT S (List.replicate n (.process a b)) = (List.replicate n .none, S) := by
  induction n with
  | zero => rfl
  | succ n ih => simp [List.replicate_succ, hhold, ih]

/-- A symbol sampled once or more, where its first sample enters a state that holds it: the entry's direction, then None. -/
theorem runCommands_held {S S' : DecoderState} {b a : Bool} {d : Direction} (henter : TT S (classify a b) = (S', d))
    (hhold : TT S' (classify a b) = (S', .none)) (n : Nat) :
    runCommands TT S (held n b a) = (d :: List.replicate n .none, S') := by
  simp [held, sample, List.replicate_succ, henter, runCommands_replicate_hold hhold]

/-- The level of pin B in the first symbol of a cycle. -/
def firstB : Sense → Bool
  | .cw => false
  | .ccw => true

/-- A clean cycle of either sense, each symbol sampled once or more. -/
def cleanCycle (sn : Sense) (n1 n2 n3 n4 : Nat) : List Instr :=
  held n1 (firstB sn) (!firstB sn) ++ held n2 true true ++ held n3 (!firstB sn) (firstB sn) ++ held n4 false false

/-- Each symbol of a clean cycle advances once and then holds, so only the first closing 00 has a direction. -/
theorem runCommands_cleanCycle (sn : Sense) (n1 n2 n3 n4 : Nat) :
    runCommands TT .start (cleanCycle sn n1 n2 n3 n4) =
      (List.replicate (n1 + 1 + (n2 + 1) + (n3 + 1)) .none ++ [dirOfSense sn] ++ List.replicate n4 .none, .start) := by
  have h1 : runCommands TT .start (held n1 (firstB sn) (!firstB sn)) =
      (List.replicate (n1 + 1) .none, succState sn .start) :=
    runCommands_held (by cases sn <;> rfl) (by cases sn <;> rfl) n1
  have h2 : runCommands TT (succState sn .start) (held n2 true true) =
      (List.replicate (n2 + 1) .none, succState sn (succState sn .start)) :=
    runCommands_held (by cases sn <;> rfl) (by cases sn <;> rfl) n2
  have h3 : runCommands TT (succState sn (succState sn .start)) (held n3 (!firstB sn) (firstB sn)) =
      (List.replicate (n3 + 1) .none, succState sn (succState sn (succState sn .start))) :=
    runCommands_held (by cases sn <;> rfl) (by cases sn <;> rfl) n3
  have h4 : runCommands TT (succState sn (succState sn (succState sn .start))) (held n4 false false) =
      (dirOfSense sn :: List.replicate n4 .none, .start) :=
    runCommands_held (by cases sn <;> rfl) rfl n4
  simp only [cleanCycle, runCommands_append, h1, h2, h3, h4, ← List.replicate_append_replicate, List.append_assoc,
    List.singleton_append]

theorem runTrace_cleanCycle (sn : Sense) (n1 n2 n3 n4 : Nat) {s : State} (hs : s.state = .start) :
    ∃ u, runTrace (cleanCycle sn n1 n2 n3 n4) s =
        .next (quiet (n1 + 1 + (n2 + 1) + (n3 + 1)) ++ [dirCode (dirOfSense sn)] ++ quiet n4, u) ∧ u.state = .start := by
  obtain ⟨u, hrun, hfinal⟩ := runTrace_eq_runCommands (cleanCycle sn n1 n2 n3 n4) s
  rw [hs, runCommands_cleanCycle] at hrun hfinal
  refine ⟨u, ?_, hfinal⟩
  simpa only [quiet, List.map_append, List.map_replicate, List.map_singleton] using hrun

/-- Settles O32: the two lists of samples are the clean cycles of the two senses. -/
theorem cleanCyclesEmitOnce : Obligations.CleanCyclesEmitOnce :=
  fun n1 n2 n3 n4 _ hs => ⟨runTrace_cleanCycle .cw n1 n2 n3 n4 hs, runTrace_cleanCycle .ccw n1 n2 n3 n4 hs⟩

/-! ## Samples between events -/

/-- How many samples of its cycle a register value is past `Start`. -/
def advances : DecoderState → Nat
  | .start => 0
  | .cwBegin | .ccwBegin => 1
  | .cwNext | .ccwNext => 2
  | .cwFinal | .ccwFinal => 3

theorem advances_TT_le (S : DecoderState) (sym : Sym) : advances (TT S sym).1 ≤ advances S + 1 := by
  revert sym
  cases S <;> decide

/-- Before its third advance a state has no entry with a direction. -/
theorem TT_none_of_advances_lt {S : DecoderState} (h : advances S < 3) (sym : Sym) : (TT S sym).2 = .none := by
  rw [TT_none_iff]
  rintro ⟨rfl | rfl, -⟩
  · exact absurd h (by decide)
  · exact absurd h (by decide)

/-- A sample advances a state at most once, so a trace too short to reach a final state and close there has no direction. -/
theorem runCommands_none_of_samples_lt {is : List Instr} {S : DecoderState} (h : advances S + samples is < 4) :
    ∀ d ∈ (runCommands TT S is).1, d = .none := by
  induction is generalizing S with
  | nil => exact fun d hd => absurd hd List.not_mem_nil
  | cons i is ih =>
    rw [runCommands_cons, List.forall_mem_cons]
    cases i with
    | inspect => exact ⟨rfl, ih h⟩
    | process a b =>
      rw [samples] at h
      have hadvance := advances_TT_le S (classify a b)
      exact ⟨TT_none_of_advances_lt (by omega) _, ih (by rw [tableCommand_process]; omega)⟩
    | reset => exact ⟨rfl, ih (by rw [samples] at h; simp only [tableCommand_reset, advances]; omega)⟩

/-- Settles O33: an effect with a direction leads to `Start`, which is three advances before a final state. -/
theorem eventsAreFourSamplesApart : Obligations.EventsAreFourSamplesApart := by
  refine ⟨fun i s t hexec hevent => (exec_portsLegal hexec).eventInStart hevent, fun is s hs hsamples => ?_⟩
  obtain ⟨u, hrun, -⟩ := runTrace_eq_runCommands is s
  refine ⟨_, u, hrun, ?_⟩
  have hnone := runCommands_none_of_samples_lt (is := is) (S := s.state) (by rw [hs, advances]; omega)
  simpa only [List.forall_mem_map, isEvent_dirCode, decide_eq_false_iff_not, not_not, ne_eq] using hnone

end Sys2Proof.Safety
end

section
/-! Any table that agrees with the document (`41_transition_table.md` R138). -/

namespace Sys2Proof.Safety

open Sys2Proof Sys2Proof.Machine

/-- This block's table is one that agrees with the document: none of the open entries is that of a final state on 00. -/
theorem agreesWithDocument_TT : AgreesWithDocument TT := by
  refine ⟨fun _ _ _ => rfl, fun S sym hopen => ?_⟩
  rw [TT_none_iff]
  rintro ⟨rfl | rfl, rfl⟩
  · exact absurd hopen (by decide)
  · exact absurd hopen (by decide)

/-- The block's table reads no open entry on the symbols. -/
def readsFixedOnly : DecoderState → List Sym → Bool
  | _, [] => true
  | S, x :: xs => decide ((S, x) ∉ openEntries) && readsFixedOnly (TT S x).1 xs

section

variable {T : Table} (hT : AgreesWithDocument T)

include hT

/-- On symbols for which the block's table reads fixed entries only, every table that agrees with the document does the same. -/
theorem AgreesWithDocument.runTable_eq {S : DecoderState} {xs : List Sym} (hfixed : readsFixedOnly S xs = true) :
    runTable T S xs = runTable TT S xs := by
  induction xs generalizing S with
  | nil => rfl
  | cons x xs ih =>
    rw [readsFixedOnly, Bool.and_eq_true, decide_eq_true_eq] at hfixed
    rw [runTable_cons, runTable_cons, hT.1 S x hfixed.1, ih hfixed.2]

theorem AgreesWithDocument.start_none (sym : Sym) : (T .start sym).2 = .none := by
  have hfixed : ((.start, sym) : DecoderState × Sym) ∉ openEntries := by simp [openEntries]
  rw [hT.1 .start sym hfixed, TT_none_iff]
  simp

/-- An entry with a direction is one of the block's table, so it leads to `Start`. -/
theorem AgreesWithDocument.start_of_ne_none {S : DecoderState} {sym : Sym} (h : (T S sym).2 ≠ .none) :
    (T S sym).1 = .start := by
  obtain heq | ⟨-, hnone⟩ := hT.entry S sym
  · rw [heq] at h ⊢
    exact TT_start_of_ne_none h
  · exact absurd hnone h

/-- 00 samples from `Start` stay there and show nothing. -/
theorem AgreesWithDocument.runTable_rest (n : Nat) :
    runTable T .start (List.replicate n 0b00#2) = (List.replicate n .none, .start) := by
  have hentry : T .start 0b00#2 = (.start, .none) := hT.1 _ _ (by decide)
  induction n with
  | zero => rfl
  | succ n ih => simp [List.replicate_succ, hentry, ih]

end

theorem runCommands_length (T : Table) (S : DecoderState) (is : List Instr) : (runCommands T S is).1.length = is.length := by
  induction is generalizing S with
  | nil => rfl
  | cons i is ih => simp [ih]

/-- Settles O35: the cycles, the noise and the interrupted attempt read fixed entries only, so they are evaluated over the
block's table; the other properties are those of one entry, or of RESET and INSPECT, which read none. -/
theorem documentEntriesSuffice : Obligations.DocumentEntriesSuffice := by
  refine ⟨agreesWithDocument_TT, fun i s => ?_, fun T hT => ⟨runCommands_length T, ?_, ?_, hT.runTable_rest, ?_, ?_, ?_,
    fun S => ⟨rfl, rfl⟩, fun S is => rfl, fun S sym => hT.start_of_ne_none, hT.start_none⟩⟩
  · rw [tableCommand_TT]
    exact ⟨_, exec_eq_tick i s, tick_state .., tick_dirO ..⟩
  all_goals exact (hT.runTable_eq (by decide)).trans (by decide)

end Sys2Proof.Safety
end

section
/-! The ports and the tick: what a tick reads, what it leaves alone, and how long an event lasts (`10_state.md` R15, R20,
`60_exceptions.md` R153, `70_reset_and_hazards.md` R171). -/

namespace Sys2Proof.Machine

/-- Settles O36: the ports of a step are the port formulas, which show what the block's step function answers. -/
theorem portsAreFunctionsOfRegisterAndInputs : Obligations.PortsAreFunctionsOfRegisterAndInputs := step_ports

/-- No operation reads the recorded ports, and each overwrites them. -/
theorem exec_withPorts (i : Instr) (s : State) (d : DirCode) (q : StateCode) :
    exec i { s with dirO := d, stateO := q } = exec i s := by
  rw [exec_eq_tick, exec_eq_tick]
  rfl

theorem nextInput_withPorts (s : State) (d : DirCode) (q : StateCode) :
    nextInput { s with dirO := d, stateO := q } = { nextInput s with dirO := d, stateO := q } := by
  obtain ⟨S, d₀, q₀, cmds, n⟩ := s
  cases cmds with
  | nil => rfl
  | cons c cs => rfl

/-- Settles O37: the presented word does not depend on the recorded ports, and the operation it selects overwrites them. -/
theorem pastOutputsAreNeverRead : Obligations.PastOutputsAreNeverRead := by
  refine fun s d q => ⟨?_, fun i => exec_withPorts i s d q⟩
  have hword : presented { s with dirO := d, stateO := q } = presented s := rfl
  rw [step, hword, nextInput_withPorts, exec_withPorts, step]

/-- Settles O20: an operation is a tick, which writes the register and the ports, and INSPECT's tick keeps the register. -/
theorem operationsLeaveTheInputAlone : Obligations.OperationsLeaveTheInputAlone := by
  intro i s t hexec
  obtain rfl := exec_next_iff.mp hexec
  refine ⟨tick_cmds .., tick_freeDrawn .., ?_⟩
  rintro rfl
  rfl

/-- From `Start` no operation has a direction. -/
theorem effect_start_none (i : Instr) : (effect .start i).2 = .none := by
  cases i with
  | inspect => rfl
  | process a b => exact Safety.agreesWithDocument_TT.start_none (classify a b)
  | reset => rfl

/-- Settles O42: a step from `Start` shows its code, and no operation from there has a direction. -/
theorem firstTickShowsStartAndNone : Obligations.FirstTickShowsStartAndNone := by
  intro s hs
  refine ⟨_, step_eq_tick s, ?_, ?_⟩
  · rw [tick_stateO, nextInput_state, hs, encState]
  · rw [tick_dirO, hs, effect_start_none]

/-- Settles O38: an event leaves the register in `Start`, from where no operation has a direction. -/
theorem eventLastsOneTick : Obligations.EventLastsOneTick := by
  intro i j s t hexec hevent
  refine ⟨_, exec_eq_tick j t, ?_⟩
  rw [tick_dirO, (exec_portsLegal hexec).eventInStart hevent, effect_start_none]
  rfl

end Sys2Proof.Machine
end

section
/-! Several decoders on a common tick (`60_exceptions.md` R160). -/

namespace Sys2Proof.Machine

/-- Settles O40: the result at a place is the step, fed by the source of that place, of the state at that place. -/
theorem instancesAreIndependent : Obligations.InstancesAreIndependent := by
  refine ⟨?_, ?_, ?_, ?_, ?_, fun s => congrArg (· :: []) (stepFrom_zero s)⟩
  · intro ss k s c cs hs hcmds
    rw [getElem?_stepInstances, hs, Option.map_some, stepFrom, presentedFrom_cons s c k cs hcmds, nextInput_cons s c cs hcmds]
  · intro ss k s hs hcmds
    rw [getElem?_stepInstances, hs, Option.map_some, stepFrom, presentedFrom_nil s k hcmds, nextInput_nil s hcmds]
  · intro ss k s hs
    rw [getElem?_stepInstances, hs, Option.map_some, stepFrom_eq_tick]
    exact ⟨_, rfl⟩
  · intro ss k hnone
    rw [getElem?_stepInstances, hnone, Option.map_none]
  · intro ss j k s hjk
    rw [getElem?_stepInstances, getElem?_stepInstances, List.getElem?_set_ne hjk]

end Sys2Proof.Machine
end

section
/-! Trace text: one written entry at a time reads back (`30_encoding.md` R60). -/

namespace Sys2Proof.Machine

/-! ## Cutting and joining -/

/-- A separator after characters that are none cuts off those characters. -/
theorem cutAt_append_cons {sep : Char → Bool} {w : List Char} {c : Char} (hw : ∀ x ∈ w, sep x = false) (hc : sep c = true)
    (rest : List Char) : cutAt sep (w ++ c :: rest) = w :: cutAt sep rest := by
  induction w with
  | nil => simp [cutAt, hc]
  | cons x w ih =>
    obtain ⟨hx, hw⟩ := List.forall_mem_cons.mp hw
    simp [cutAt, hx, ih hw]

/-- A leading separator adds an empty piece only. -/
theorem piecesAt_cons_sep {sep : Char → Bool} {c : Char} (hc : sep c = true) (cs : List Char) :
    piecesAt sep (c :: cs) = piecesAt sep cs := by
  simp [piecesAt, cutAt, hc]

theorem allSome_some_cons {α : Type} (x : α) (xs : List (Option α)) :
    allSome (some x :: xs) = (allSome xs).map (x :: ·) := rfl

/-! ## Reading a trace entry by entry -/

/-- A space before a written trace is skipped. -/
theorem parseTrace_space (text : List Char) : parseTrace (' ' :: text) = parseTrace text := by
  have hspace (ws : List Char) : piecesAt (· == ' ') (' ' :: ws) = piecesAt (· == ' ') ws := piecesAt_cons_sep rfl ws
  unfold parseTrace
  rw [cutAt]
  cases cutAt (fun c => c == ';' || c == '\n') text with
  | nil => rfl
  | cons w ws => simp [hspace]

/-- An entry and the `;` after it are read off a written trace. -/
theorem parseTrace_entry {w : List Char} {it : TraceItem} (hw : ∀ x ∈ w, (x == ';' || x == '\n') = false)
    (hitem : parseItem (piecesAt (· == ' ') w) = some it) (rest : List Char) :
    parseTrace (w ++ ';' :: rest) = (parseTrace rest).map (it :: ·) := by
  have hne : (piecesAt (· == ' ') w).isEmpty = false := by
    cases hp : piecesAt (· == ' ') w with
    | nil => rw [hp] at hitem; cases hitem
    | cons p ps => rfl
  rw [parseTrace, cutAt_append_cons hw rfl]
  simp [hne, hitem, allSome_some_cons, parseTrace]

/-! ## Written commands -/

theorem traceText_no_separator (i : Instr) : ∀ x ∈ traceText i, (x == ';' || x == '\n') = false := by
  cases i with
  | inspect => simp [traceText]
  | process a b => cases a <;> cases b <;> simp [traceText, bitChar]
  | reset => simp [traceText]

theorem parseItem_traceText (i : Instr) : parseItem (piecesAt (· == ' ') (traceText i)) = some (.command i) := by
  cases i with
  | inspect => rfl
  | process a b => cases a <;> cases b <;> rfl
  | reset => rfl

/-- A written command without a `;` after it. -/
theorem parseTrace_traceText (i : Instr) : parseTrace (traceText i) = some [.command i] := by
  cases i with
  | inspect => rfl
  | process a b => cases a <;> cases b <;> rfl
  | reset => rfl

/-- Settles O7, by induction on the trace: the first entry is read off with its `;`, and the space after it is skipped. -/
theorem traceTextReadsBack : Obligations.TraceTextReadsBack := by
  intro is
  induction is with
  | nil => rfl
  | cons i is ih =>
    cases is with
    | nil =>
      rw [List.map_singleton, List.map_singleton, List.intercalate_singleton]
      exact parseTrace_traceText i
    | cons j js =>
      rw [List.map_cons, List.map_cons, List.intercalate_cons_cons, ← List.map_cons, List.append_assoc, List.cons_append,
        parseTrace_entry (traceText_no_separator i) (parseItem_traceText i), List.cons_append, List.nil_append,
        parseTrace_space, ih]
      rfl

end Sys2Proof.Machine
end
